-- ==== Sys2Proof/Config.lean ====
section
/-! DEFINITION. What the spec leaves free: one uninterpreted source of draws. -/

namespace Sys2Proof

/-- The values the spec calls a draw (R36, R80, R120): one natural number per drawing, picked by `State.draws`. It has no
body, so nothing can be proved of its values (log entry 3). -/
opaque Config.freeDraw : Nat → Nat

end Sys2Proof
end

