-- ==== Sys2Proof/Word.lean ====
section
/-! DEFINITION. The bit-vector widths of the spec (R9, R10). -/

namespace Sys2Proof

/-- One byte of a stream; bit 7 is its most significant bit (R11). -/
abbrev Byte := BitVec 8

/-- The command word of the Caller's command port (R61). -/
abbrev CommandWord := BitVec 16

/-- The 3-bit major-type code (R9, R19). -/
abbrev MtCode := BitVec 3

/-- `AdditionalInfo`: the 5-bit info field of a header byte (R20). -/
abbrev AdditionalInfo := BitVec 5

/-- `Magnitude`: an unsigned 64-bit value; its `toNat` is the magnitude (R21). -/
abbrev Magnitude := BitVec 64

end Sys2Proof
end

