-- ==== Sys2Proof/Syntax.lean ====
section
/-! DEFINITION. The instructions (one constructor per row of spec/opcode_table.json), the lines of a
Caller program (R61, R64, R65) and the major types (R19). -/

namespace Sys2Proof

/-- The closed enumeration of the major types (R19, R66). -/
inductive MajorType where
  | unsignedInteger
  | negativeInteger
  | byteString
  | textString
  | dataArray
  | dataMap
  | taggedValue
  | simpleValue
deriving DecidableEq, Repr

/-- The instructions. The first four are the commands (rows of format `CMD16`, R61); the ten `hdr…` are the classes of
header byte (rows of format `HDR8`, R53, R60), which the pseudo-instruction HDR runs (R65; log entry 1). -/
inductive Instr where
  /-- ENC: encode one header for a major type and the magnitude on the operand port, a mathematical integer (`MagIn`, R22;
  R71). -/
  | enc (mt : MajorType) (mag : Int)
  /-- DEC: split a header byte (R84). -/
  | dec (hb : Byte)
  /-- RDM: read and reconstruct the magnitude for one info value (R86). -/
  | rdm (info : AdditionalInfo)
  /-- RDH: read one header byte from the Source and split it (R98). -/
  | rdh
  /-- HDR_DIRECT_0_15: a header byte with info 0 to 15 (R87). -/
  | hdrDirect0To15 (mt : MajorType) (info : AdditionalInfo)
  /-- HDR_DIRECT_16_23: a header byte with info 16 to 23 (R87). -/
  | hdrDirect16To23 (mt : MajorType) (info : AdditionalInfo)
  /-- HDR_AI24: one trailing byte (R88). -/
  | hdrAi24 (mt : MajorType)
  /-- HDR_AI25: two trailing bytes (R89). -/
  | hdrAi25 (mt : MajorType)
  /-- HDR_AI26: four trailing bytes (R90). -/
  | hdrAi26 (mt : MajorType)
  /-- HDR_AI27: eight trailing bytes (R91). -/
  | hdrAi27 (mt : MajorType)
  /-- HDR_AI28_RESERVED: reserved info 28 (R92). -/
  | hdrAi28 (mt : MajorType)
  /-- HDR_AI29_RESERVED: reserved info 29 (R92). -/
  | hdrAi29 (mt : MajorType)
  /-- HDR_AI30_RESERVED: reserved info 30 (R92). -/
  | hdrAi30 (mt : MajorType)
  /-- HDR_AI31_INDEFINITE: the indefinite sentinel (R93). -/
  | hdrAi31 (mt : MajorType)
deriving DecidableEq, Repr

/-- The words of one instruction: a command word with the MAG operand port beside it (R61), or one header byte (R52). -/
inductive Encoded where
  | cmd16 (word : CommandWord) (mag : Int)
  | hdr8 (hb : Byte)
deriving DecidableEq, Repr

/-- `Phase1`: the pair a header byte splits into (R24). -/
structure Phase1 where
  mt : MajorType
  info : AdditionalInfo
deriving DecidableEq, Repr

/-- What a line of an assembled Caller program asks for (R64, R65). -/
inductive LineOp where
  /-- A literal command word and the value on the MAG operand port (R61). -/
  | word (w : CommandWord) (mag : Int)
  /-- `RDM @n.info` (R64). -/
  | rdmAt (n : Nat)
  /-- First line of an HDR: its RDH (R65). -/
  | hdr
  /-- Second line of an HDR: its `RDM @prev.info` (R65). -/
  | hdrRest
deriving DecidableEq, Repr

/-- A line with the streams the Caller binds to it when it issues it (R28, R63); the numbers are places in the tables of
streams that State holds. -/
structure Line where
  op : LineOp
  sink : Nat
  source : Nat
deriving DecidableEq, Repr

/-- The statements of the Caller's assembler (R64, R65), as abstract syntax. -/
inductive AsmLine where
  /-- `ENC <mt>, <mag>` -/
  | enc (mt : MajorType) (mag : Int)
  /-- `DEC <hb>` -/
  | dec (hb : Byte)
  /-- `RDM <info>` -/
  | rdm (info : AdditionalInfo)
  /-- `RDM @n.info` -/
  | rdmAt (n : Nat)
  /-- `RDH` -/
  | rdh
  /-- The pseudo-instruction `HDR`. -/
  | hdr
deriving DecidableEq, Repr

end Sys2Proof
end

