-- ==== Sys2Proof/WellFormed.lean ====
section
/-! DEFINITION. Which terms of Instr are instructions of the opcode table. -/

namespace Sys2Proof

/-- Every field is held to its width by its type; what is left to check is that the info of a direct header byte lies in the
range of its row (R53; opcode_table.json, rows HDR_DIRECT_0_15 and HDR_DIRECT_16_23). -/
def Instr.wellFormed : Instr → Bool
  | .enc _ _ => true
  | .dec _ => true
  | .rdm _ => true
  | .rdh => true
  | .hdrDirect0To15 _ info => info.toNat ≤ 15
  | .hdrDirect16To23 _ info => 16 ≤ info.toNat && info.toNat ≤ 23
  | .hdrAi24 _ => true
  | .hdrAi25 _ => true
  | .hdrAi26 _ => true
  | .hdrAi27 _ => true
  | .hdrAi28 _ => true
  | .hdrAi29 _ => true
  | .hdrAi30 _ => true
  | .hdrAi31 _ => true

end Sys2Proof
end

