-- ==== Sys2Proof/Decode.lean ====
section
/-! DEFINITION. The major-type table, the header byte, the decoder of command words and header bytes, the encoder, the rows
of the opcode table, and the assembler of Caller programs. -/

namespace Sys2Proof

/-! ### The major-type table (R66 to R69) -/

/-- `mtCode`: the code of a variant (R66, R67). -/
def mtCode : MajorType → MtCode
  | .unsignedInteger => 0
  | .negativeInteger => 1
  | .byteString => 2
  | .textString => 3
  | .dataArray => 4
  | .dataMap => 5
  | .taggedValue => 6
  | .simpleValue => 7

/-- `mtOfCode`: the variant of a code (R66, R68). -/
def mtOfCode (c : MtCode) : MajorType :=
  if c = 0 then .unsignedInteger
  else if c = 1 then .negativeInteger
  else if c = 2 then .byteString
  else if c = 3 then .textString
  else if c = 4 then .dataArray
  else if c = 5 then .dataMap
  else if c = 6 then .taggedValue
  else .simpleValue

/-! ### The header byte (R52 to R55) -/

/-- The header byte of major-type code c and info i: `(c << 5) | i` (R52). -/
def headerByte (c : MtCode) (i : AdditionalInfo) : Byte :=
  (c.setWidth 8 <<< 5) ||| i.setWidth 8

/-- The major-type code of a header byte: `(hb >> 5) & 0x07` (R54). -/
def headerCode (hb : Byte) : MtCode := ((hb >>> 5) &&& 0x07#8).setWidth 3

/-- The info of a header byte: `hb & 0x1F` (R54). -/
def headerInfo (hb : Byte) : AdditionalInfo := (hb &&& 0x1F#8).setWidth 5

/-- The split of a header byte into major type and info (R54, R84). -/
def splitHeader (hb : Byte) : Phase1 := ⟨mtOfCode (headerCode hb), headerInfo hb⟩

/-- T(info): the number of trailing bytes of an info value (R53). The reserved values have none that a command reads (R92). -/
def trailingBytes (info : AdditionalInfo) : Nat :=
  if info = 24 then 1
  else if info = 25 then 2
  else if info = 26 then 4
  else if info = 27 then 8
  else 0

/-! ### Decoding -/

/-- Why a word is no instruction. -/
inductive DecodeError where
  /-- A command word whose must-be-zero bits are not all 0 (R62). -/
  | mustBeZero (w : CommandWord)
deriving DecidableEq, Repr

/-- Decoding of a command word, with the value on the MAG operand port (R61, R62). Only ENC looks at that port (R61; log
entry 15). -/
def decodeCommand (w : CommandWord) (mag : Int) : Except DecodeError Instr :=
  if w &&& 0xC7FF#16 = 0x0000#16 then .ok (.enc (mtOfCode (w.extractLsb' 11 3)) mag)
  else if w &&& 0xFF00#16 = 0x4000#16 then .ok (.dec (w.extractLsb' 0 8))
  else if w &&& 0xFFE0#16 = 0x8000#16 then .ok (.rdm (w.extractLsb' 0 5))
  else if w &&& 0xFFFF#16 = 0xC000#16 then .ok .rdh
  else .error (.mustBeZero w)

/-- The row of the opcode table that a split header byte belongs to (R53, R60). -/
def headerInstr (p : Phase1) : Instr :=
  if p.info.toNat ≤ 15 then .hdrDirect0To15 p.mt p.info
  else if p.info.toNat ≤ 23 then .hdrDirect16To23 p.mt p.info
  else if p.info = 24 then .hdrAi24 p.mt
  else if p.info = 25 then .hdrAi25 p.mt
  else if p.info = 26 then .hdrAi26 p.mt
  else if p.info = 27 then .hdrAi27 p.mt
  else if p.info = 28 then .hdrAi28 p.mt
  else if p.info = 29 then .hdrAi29 p.mt
  else if p.info = 30 then .hdrAi30 p.mt
  else .hdrAi31 p.mt

/-- Decoding of a header byte: every byte value is one (R54, R60). -/
def decodeHeader (hb : Byte) : Instr := headerInstr (splitHeader hb)

/-- The decoder. -/
def decode : Encoded → Except DecodeError Instr
  | .cmd16 w mag => decodeCommand w mag
  | .hdr8 hb => .ok (decodeHeader hb)

/-- The instruction of a row of the opcode table, from its bits; MAG, which the row gives no bits, is 0. -/
def decodeTableWord (nbits w : Nat) : Option Instr :=
  if nbits = 16 then
    match decodeCommand (BitVec.ofNat 16 w) 0 with
    | .ok i => some i
    | .error _ => none
  else if nbits = 8 then some (decodeHeader (BitVec.ofNat 8 w))
  else none

/-! ### Encoding -/

/-- The header byte of a major type and an info, as the words of an instruction. -/
def encodeHeader (mt : MajorType) (info : AdditionalInfo) : Encoded := .hdr8 (headerByte (mtCode mt) info)

/-- The words of an instruction (R52, R61). -/
def encode : Instr → Encoded
  | .enc mt mag => .cmd16 ((mtCode mt).setWidth 16 <<< 11) mag
  | .dec hb => .cmd16 (0x4000#16 ||| hb.setWidth 16) 0
  | .rdm info => .cmd16 (0x8000#16 ||| info.setWidth 16) 0
  | .rdh => .cmd16 0xC000#16 0
  | .hdrDirect0To15 mt info => encodeHeader mt info
  | .hdrDirect16To23 mt info => encodeHeader mt info
  | .hdrAi24 mt => encodeHeader mt 24
  | .hdrAi25 mt => encodeHeader mt 25
  | .hdrAi26 mt => encodeHeader mt 26
  | .hdrAi27 mt => encodeHeader mt 27
  | .hdrAi28 mt => encodeHeader mt 28
  | .hdrAi29 mt => encodeHeader mt 29
  | .hdrAi30 mt => encodeHeader mt 30
  | .hdrAi31 mt => encodeHeader mt 31

/-- Match and mask of a row of the opcode table; a value of 8 or of 16 bits, written in 16. -/
structure TableRow where
  nbits : Nat
  fixed : BitVec 16
  mask : BitVec 16
deriving DecidableEq, Repr

/-- The row of spec/opcode_table.json that a constructor stands for. -/
def Instr.tableRow : Instr → TableRow
  | .enc _ _ => ⟨16, 0x0000, 0xC7FF⟩
  | .dec _ => ⟨16, 0x4000, 0xFF00⟩
  | .rdm _ => ⟨16, 0x8000, 0xFFE0⟩
  | .rdh => ⟨16, 0xC000, 0xFFFF⟩
  | .hdrDirect0To15 _ _ => ⟨8, 0x00, 0x10⟩
  | .hdrDirect16To23 _ _ => ⟨8, 0x10, 0x18⟩
  | .hdrAi24 _ => ⟨8, 0x18, 0x1F⟩
  | .hdrAi25 _ => ⟨8, 0x19, 0x1F⟩
  | .hdrAi26 _ => ⟨8, 0x1A, 0x1F⟩
  | .hdrAi27 _ => ⟨8, 0x1B, 0x1F⟩
  | .hdrAi28 _ => ⟨8, 0x1C, 0x1F⟩
  | .hdrAi29 _ => ⟨8, 0x1D, 0x1F⟩
  | .hdrAi30 _ => ⟨8, 0x1E, 0x1F⟩
  | .hdrAi31 _ => ⟨8, 0x1F, 0x1F⟩

/-- Words that belong to a row: of its format, and equal to its match under its mask. -/
def TableRow.holds (r : TableRow) : Encoded → Prop
  | .cmd16 w _ => r.nbits = 16 ∧ w &&& r.mask = r.fixed
  | .hdr8 hb => r.nbits = 8 ∧ hb.setWidth 16 &&& r.mask = r.fixed

/-! ### Assembling a Caller program (R64, R65) -/

/-- A command as an assembled line's content: its command word and its MAG operand (R64). -/
def commandLine (i : Instr) : LineOp :=
  match encode i with
  | .cmd16 w mag => .word w mag
  | .hdr8 _ => .hdr

/-- The lines that a statement stands for: one, but for HDR, which is two (R65). -/
def AsmLine.expand : AsmLine → List LineOp
  | .enc mt mag => [commandLine (.enc mt mag)]
  | .dec hb => [commandLine (.dec hb)]
  | .rdm info => [commandLine (.rdm info)]
  | .rdmAt n => [.rdmAt n]
  | .rdh => [commandLine .rdh]
  | .hdr => [.hdr, .hdrRest]

/-- Assembly of a program whose commands are all bound to one Sink and one Source. `@n` counts the lines after HDR is expanded
(log entry 14). -/
def assemble (sink source : Nat) (p : List AsmLine) : List Line :=
  (p.flatMap AsmLine.expand).map fun op => ⟨op, sink, source⟩

end Sys2Proof
end

