-- ==== Sys2Proof/Machine/State.lean ====
section
/-! DEFINITION. The values commands return, the state of the instances, their Callers and the streams, and the state after
reset. -/

namespace Sys2Proof.Machine

/-! ### Values (R23 to R26) -/

/-- `Resolved`: the result of Phase 2 on success (R23). -/
inductive Resolved where
  | mag (m : Magnitude)
  | indefinite
deriving DecidableEq, Repr

/-- `Header`: a major type and what Phase 2 gave (R24). -/
structure Header where
  mt : MajorType
  resolved : Resolved
deriving DecidableEq, Repr

/-- `ErrorKind`: the codec's three kinds and the two faults of the collaborators that reach the Caller (R25, R100, R105).
The collaborator's own fault value is not attached (log entry 18). -/
inductive ErrorKind where
  | negativeMagnitude (v : Int)
  | magnitudeOverflow (v : Int)
  | reservedAdditionalInfo (info : AdditionalInfo)
  | sinkFault
  | sourceFault
deriving DecidableEq, Repr

/-- What a command hands over on success: ENC a byte count, DEC and RDH a Phase1, RDM a Resolved (R26). -/
inductive Payload where
  | count (n : Nat)
  | phase1 (p : Phase1)
  | resolved (r : Resolved)
deriving DecidableEq, Repr

/-- `Result`: the tagged result of one command (R26). -/
inductive Result where
  | ok (p : Payload)
  | err (e : ErrorKind)
deriving DecidableEq, Repr

/-- What an HDR yields: the Header record, or the error of its RDH or its RDM (R65). -/
inductive HdrYield where
  | header (h : Header)
  | error (e : ErrorKind)
deriving DecidableEq, Repr

/-! ### Streams (R27, R33) -/

/-- How a stream answers one access (R35, R36); `fault` is a write fault of a Sink, or a Source's "stream closed". -/
inductive Answer where
  | accept
  | fault
deriving DecidableEq, Repr

/-- A Sink: the bytes written so far, oldest first (R27), and how it answers its coming write accesses, next first; where none
is listed it accepts (log entry 4). -/
structure Sink where
  bytes : List Byte
  answers : List Answer
deriving DecidableEq, Repr

/-- A Source: the bytes it will yield, next first (R27), and how it answers its coming read accesses, next first; where none is
listed it does not signal "stream closed" (log entry 4). -/
structure Source where
  bytes : List Byte
  answers : List Answer
deriving DecidableEq, Repr

/-! ### One instance and its Caller (R31) -/

/-- A command that was issued and has not returned (R29), with the line that issued it. -/
structure InFlight where
  instr : Instr
  line : Line
deriving DecidableEq, Repr

/-- One Codec and its Caller: the instance's number (log entry 8), the command list and the index into it (R15), the results of the lines run (R131), what the HDR
lines yielded (R65), the result port, `none` where it is unspecified (R30, R31), and the command in progress (R29). -/
structure Codec where
  id : Nat
  program : List Line
  k : Nat
  results : List Result
  headers : List HdrYield
  result : Option Result
  inFlight : Option InFlight
deriving DecidableEq, Repr

/-- A header whose RDM is due (R124; log entry 21): the place of the Source, the number of the instance that read the header byte,
the line of its program that did, and the byte's info. -/
structure DueRdm where
  source : Nat
  owner : Nat
  line : Nat
  info : AdditionalInfo
deriving DecidableEq, Repr

/-- A move of the Callers (log entry 8). -/
inductive Event where
  /-- Issue the next line of the acting Codec and let the command return. -/
  | run
  /-- Issue the next line of the acting Codec and leave the command in progress. -/
  | issue
  /-- Let the command in progress return. -/
  | finish
  /-- Assert reset on the acting Codec (R120). -/
  | reset
  /-- The acting Codec changes places with the one at this place of `others`. -/
  | switchTo (n : Nat)
deriving DecidableEq, Repr

/-- The machine: the acting Codec, the other ones (R118), the streams, which of them the command being executed is bound to
(R28), the counter of draws (log entry 3), the Callers' coming moves, next first, where the acting Codec's next line is run if
none is listed, and the headers whose RDM is due, at most one for a Source, their Sources rising (R124; log entry 21). -/
structure State where
  inst : Codec
  others : List Codec
  sinks : List Sink
  sources : List Source
  boundSink : Nat
  boundSource : Nat
  draws : Nat
  events : List Event
  due : List DueRdm
deriving DecidableEq, Repr

/-! ### Where the model stops -/

/-- Faults: the run is over. -/
inductive Fault where
  /-- The Caller program has no line at index k: the run has ended (R131). Raised by the sequencer; safe: nothing is claimed
  of what comes after the end. -/
  | endOfProgram
deriving DecidableEq, Repr

/-- Refusals: the spec gives the run no meaning from here. -/
inductive Refusal where
  /-- An instruction without a meaning; no arm of `exec` answers so. Safe. -/
  | notModelled (mnemonic : String)
  /-- A command word with must-be-zero bits set (R62). Raised when a line is resolved; safe. -/
  | mustBeZero (w : CommandWord)
  /-- `@n.info` of a line that did not return `Ok(Phase1)` (R64); `@prev` gives the number of the line before. Raised when a
  line is resolved; safe. -/
  | unresolvedInfo (n : Nat)
  /-- A command on a stream that a command in progress of another instance is bound to (R45). Raised when a command is issued;
  safe. -/
  | streamOverlap
  /-- A write where the Caller has bound no Sink (R122). Raised by `memWrite`; safe. -/
  | unboundSink
  /-- A read where the Caller has bound no Source (R122). Raised by `memRead`; safe. -/
  | unboundSource
  /-- A command issued before the instance's previous one has returned (R123). Raised when a command is issued; safe. -/
  | instanceBusy
  /-- The Caller's schedule lets a command return where none is in progress. Raised by the sequencer; safe. -/
  | nothingInFlight
  /-- The Caller's schedule turns to an instance that is not there. Raised by the sequencer; safe. -/
  | noSuchInstance
deriving DecidableEq, Repr

/-- The outcome of a step of this machine. -/
abbrev Outcome := Host.Outcome State Fault Refusal

/-! ### Reset -/

/-- An instance after reset, at the start of an empty program: the result port unspecified, nothing in progress, k = 0 (R32). -/
def Codec.reset : Codec :=
  { id := 0, program := [], k := 0, results := [], headers := [], result := none, inFlight := none }

/-- The machine right after reset (R32, R121): one instance, one Sink and one Source with nothing in them (log entries 4 to
8). -/
def State.reset : State :=
  { inst := Codec.reset, others := [], sinks := [⟨[], []⟩], sources := [⟨[], []⟩],
    boundSink := 0, boundSource := 0, draws := 0, events := [], due := [] }

end Sys2Proof.Machine
end

