-- ==== Sys2Proof/Machine/Ops.lean ====
section
/-! DEFINITION. The operations every command is made of: bytes of a number, draws, the two stream primitives, returning a
result, yielding a Header. -/

namespace Sys2Proof.Machine

/-! ### Big-endian bytes (R12, R34) -/

/-- `BE_n(v)`: the n bytes of v, most significant first (R12). -/
def beBytes : Nat → Nat → List Byte
  | 0, _ => []
  | n + 1, v => BitVec.ofNat 8 (v / 2 ^ (8 * n)) :: beBytes n v

/-- `BEval`: the value of a list of bytes, most significant first (R12). -/
def beVal : List Byte → Nat
  | [] => 0
  | b :: bs => b.toNat * 2 ^ (8 * bs.length) + beVal bs

/-! ### Draws -/

/-- A draw in 0..bound (R36, R80, R120): a free value but for its range; log entry 3. -/
def State.draw (s : State) : Nat → Nat
  | 0 => 0
  | b + 1 => Config.freeDraw s.draws % (b + 2)

/-! ### Stream primitives (R35, R36) -/

/-- What a stream access ends in: done, with what it gives and the state after; failed, with the state after; or there is no
stream to make it on. -/
inductive Access (α : Type) where
  | done (a : α) (s : State)
  | failed (s : State)
  | unbound

/-- The Sink the command is bound to (R28). -/
def State.sink? (s : State) : Option Sink := s.sinks[s.boundSink]?

/-- The Source the command is bound to (R28). -/
def State.source? (s : State) : Option Source := s.sources[s.boundSource]?

/-- The Sink the command is bound to, replaced. -/
def State.setSink (s : State) (k : Sink) : State := { s with sinks := s.sinks.set s.boundSink k }

/-- The Source the command is bound to, replaced. -/
def State.setSource (s : State) (q : Source) : State := { s with sources := s.sources.set s.boundSource q }

/-- The next draw is another one. -/
def State.nextDraw (s : State) : State := { s with draws := s.draws + 1 }

/-- A drawn number of the bytes, from the first, stands in the Sink behind what k holds (R39, R80). -/
def partialWrite (k : Sink) (bs : List Byte) (s : State) : State :=
  (s.setSink { k with bytes := k.bytes ++ bs.take (s.draw bs.length) }).nextDraw

/-- A drawn number of bytes, at most n and at most what is there, has left the Source (R36). -/
def partialRead (q : Source) (n : Nat) (s : State) : State :=
  (s.setSource { q with bytes := q.bytes.drop (s.draw (min n q.bytes.length)) }).nextDraw

/-- `MemWrite(SINK, n, v)` (R35): the bytes of `BE_n(v)` are appended in order, or the Sink signals a fault; what a fault leaves
in the Sink is the whole command's (R39): `sinkFault`. -/
def memWrite (n v : Nat) (s : State) : Access Unit :=
  match s.sink? with
  | none => .unbound
  | some k =>
    match k.answers with
    | .fault :: rest => .failed (s.setSink { k with answers := rest })
    | answers => .done () (s.setSink { bytes := k.bytes ++ beBytes n v, answers := answers.tail })

/-- `MemRead(SOURCE, n)` (R36): the next n bytes are taken and their value returned; where fewer are there, or the Source
signals that it is closed, the read fails. -/
def memRead (n : Nat) (s : State) : Access Nat :=
  match s.source? with
  | none => .unbound
  | some q =>
    match q.answers with
    | .fault :: rest => .failed (partialRead { q with answers := rest } n s)
    | answers =>
      if q.bytes.length < n then .failed (partialRead { q with answers := answers.tail } n s)
      else .done (beVal (q.bytes.take n)) (s.setSource { bytes := q.bytes.drop n, answers := answers.tail })

/-! ### Returning a result, and errors (R107, R108, R113) -/

/-- A command returns its result: it stands on the result port (R30), the Caller keeps it (R131), nothing is in progress, and
the Caller's index moves on whatever the status (R15). This is all that an error does, too: there is no trap to take (R113). -/
def complete (r : Result) (s : State) : State :=
  { s with inst := { s.inst with
      result := some r, results := s.inst.results ++ [r], k := s.inst.k + 1, inFlight := none } }

/-- `raise E`: the command ends with an error as its result (R12, R108). -/
def raise (e : ErrorKind) (s : State) : State := complete (.err e) s

/-- A fault of the Sink, signalled in t, ends the command that was issued in s and appends the bytes bs (R80): the Sink holds
what it held in s and a drawn prefix of bs, and the result is SinkFault. -/
def sinkFault (s : State) (bs : List Byte) (t : State) : State :=
  match s.sink?, t.sink? with
  | some k, some l => raise .sinkFault (partialWrite { l with bytes := k.bytes } bs t)
  | _, _ => raise .sinkFault t

/-- Write, then go on; where the Sink signals a fault, `fault` says how the command ends. -/
def writeThen (n v : Nat) (s : State) (fault next : State → Outcome) : Outcome :=
  match memWrite n v s with
  | .done _ t => next t
  | .failed t => fault t
  | .unbound => .refused .unboundSink

/-- Read, then go on with the value; a failed read ends the command with SourceFault (R97): `fault` says how. -/
def readThen (n : Nat) (s : State) (fault : State → Outcome) (next : Nat → State → Outcome) : Outcome :=
  match memRead n s with
  | .done v t => next v t
  | .failed t => fault t
  | .unbound => .refused .unboundSource

/-- An HDR yields a Header record or an error (R65). -/
def yieldHdr (y : HdrYield) (s : State) : State :=
  { s with inst := { s.inst with headers := s.inst.headers ++ [y] } }

/-! ### The headers whose RDM is due (R124; log entry 21). No command looks at them. -/

/-- No RDM is due on the bound Source: one has followed the header byte, or another read has come between. -/
def settle (s : State) : State := { s with due := s.due.filter fun e => e.source != s.boundSource }

/-- The header byte just read off the bound Source, by the acting Codec's line k, has this info, and its RDM is due. -/
def awaitRdm (info : AdditionalInfo) (s : State) : State :=
  { s with due := s.due.filter (fun e => e.source < s.boundSource) ++
      ⟨s.boundSource, s.inst.id, s.inst.k, info⟩ :: s.due.filter fun e => s.boundSource < e.source }

/-! ### The streams a command uses (R38, R83, R130) -/

/-- `nTrail(m)` (R83). -/
def nTrail (m : Nat) : Nat :=
  if m ≤ 23 then 0 else if m ≤ 255 then 1 else if m ≤ 65535 then 2 else if m ≤ 4294967295 then 4 else 8

/-- `infoOf(m)` (R83): the minimal info of a magnitude (R57). -/
def infoOf (m : Nat) : AdditionalInfo :=
  if m ≤ 23 then BitVec.ofNat 5 m
  else if m ≤ 255 then 24 else if m ≤ 65535 then 25 else if m ≤ 4294967295 then 26 else 27

/-- `encodeBytes(c, m)` (R83), for a magnitude in range. -/
def encodeBytes (c : MtCode) (m : Nat) : List Byte :=
  headerByte c (infoOf m) :: beBytes (nTrail m) m

/-- A magnitude that ENC accepts (R57, R78). -/
abbrev inRange (m : Int) : Prop := 0 ≤ m ∧ m ≤ 2 ^ 64 - 1

/-- The info whose trailing bytes an instruction reads, where it reads any (R38). -/
def readInfo : Instr → Option AdditionalInfo
  | .enc _ _ => none
  | .dec _ => none
  | .rdm info => some info
  | .rdh => none
  | .hdrDirect0To15 _ info => some info
  | .hdrDirect16To23 _ info => some info
  | .hdrAi24 _ => some 24
  | .hdrAi25 _ => some 25
  | .hdrAi26 _ => some 26
  | .hdrAi27 _ => some 27
  | .hdrAi28 _ => some 28
  | .hdrAi29 _ => some 29
  | .hdrAi30 _ => some 30
  | .hdrAi31 _ => some 31

/-- How many bytes an instruction takes from the Source (R38). -/
def readLength (i : Instr) : Nat :=
  if i = .rdh then 1 else
    match readInfo i with
    | some info => trailingBytes info
    | none => 0

/-- The bytes an instruction appends to the Sink (R38, R83). -/
def writeBytes : Instr → List Byte
  | .enc mt m => if inRange m then encodeBytes (mtCode mt) m.toNat else []
  | _ => []

/-- The Caller hands a Sink over to ENC (R130). -/
def usesSink : Instr → Bool
  | .enc _ _ => true
  | _ => false

/-- The Caller hands a Source over to RDM and RDH (R130), and so to the items an HDR reads. -/
def usesSource (i : Instr) : Bool := i = .rdh || (readInfo i).isSome

end Sys2Proof.Machine
end

