-- ==== Sys2Proof/Machine/Encoder.lean ====
section
/-! DEFINITION. The Encoder: ENC (41_encoder.md). -/

namespace Sys2Proof.Machine

/-- A tier with trailing bytes: the header byte with the tier's info, then the magnitude in n bytes (R74 to R77). A fault of the
Sink on either access leaves a prefix of the command's 1 + n bytes (R80). -/
def emitTier (mt : MajorType) (info : AdditionalInfo) (n : Nat) (m : Int) (s : State) : Outcome :=
  let hb := headerByte (mtCode mt) info
  let fault := fun t => Host.Outcome.next (sinkFault s (hb :: beBytes n m.toNat) t)
  writeThen 1 hb.toNat s fault fun s₁ =>
    writeThen n m.toNat s₁ fault fun s₂ =>
      .next (complete (.ok (.count (1 + n))) s₂)

/-- The direct tier: one header byte whose info is the magnitude (R73). -/
def emitDirect (mt : MajorType) (m : Int) (s : State) : Outcome :=
  let hb := headerByte (mtCode mt) (BitVec.ofNat 5 m.toNat)
  writeThen 1 hb.toNat s (fun t => .next (sinkFault s [hb] t)) fun s₁ =>
    .next (complete (.ok (.count 1)) s₁)

/-- ENC (R71), "evaluated in order, first match wins". -/
def execEnc (mt : MajorType) (m : Int) (s : State) : Outcome :=
  if m < 0 then .next (raise (.negativeMagnitude m) s)
  else if m ≤ 23 then emitDirect mt m s
  else if m ≤ 255 then emitTier mt 24 1 m s
  else if m ≤ 65535 then emitTier mt 25 2 m s
  else if m ≤ 4294967295 then emitTier mt 26 4 m s
  else if m ≤ 18446744073709551615 then emitTier mt 27 8 m s
  else .next (raise (.magnitudeOverflow m) s)

end Sys2Proof.Machine
end

