-- ==== Sys2Proof/Machine/Decoder.lean ====
section
/-! DEFINITION. The Decoder: DEC, RDM, RDH (42_decoder.md). -/

namespace Sys2Proof.Machine

/-- What Phase 2 ends in. -/
inductive Phase2 where
  | got (r : Resolved)
  | failed (e : ErrorKind)
deriving DecidableEq, Repr

/-- Phase 2 as the result of a command. -/
def Phase2.result : Phase2 → Result
  | .got r => .ok (.resolved r)
  | .failed e => .err e

/-- A trailing field of n bytes, zero-extended to 64 bits (R88 to R91). -/
def readField (n : Nat) (s : State) (fin : Phase2 → State → Outcome) : Outcome :=
  readThen n s (fin (.failed .sourceFault)) fun v t => fin (.got (.mag (BitVec.ofNat 64 v))) t

/-- Phase 2 for one info value (R86): `fin` returns what it ends in. The 8-byte pattern is read unsigned, which is the
"promotion" of R91. -/
def readMagnitude (info : AdditionalInfo) (s : State) (fin : Phase2 → State → Outcome) : Outcome :=
  if info.toNat < 24 then fin (.got (.mag (info.setWidth 64))) s
  else if info = 24 then readField 1 s fin
  else if info = 25 then readField 2 s fin
  else if info = 26 then readField 4 s fin
  else if info = 27 then readField 8 s fin
  else if info = 31 then fin (.got .indefinite) s
  else fin (.failed (.reservedAdditionalInfo info)) s

/-- An RDM ends: it returns what Phase 2 ended in, and is due no longer (R124). -/
def endRdm (p : Phase2) (s : State) : State := complete p.result (settle s)

/-- An RDH has its header byte: it returns the split, and the RDM is due (R98, R124). -/
def endRdh (hb : Byte) (s : State) : State :=
  complete (.ok (.phase1 (splitHeader hb))) (awaitRdm (splitHeader hb).info s)

/-- DEC (R84). -/
def execDec (hb : Byte) (s : State) : Outcome :=
  .next (complete (.ok (.phase1 (splitHeader hb))) s)

/-- RDM (R86). -/
def execRdm (info : AdditionalInfo) (s : State) : Outcome :=
  readMagnitude info s fun p t => .next (endRdm p t)

/-- RDH (R98): `MemRead(SOURCE, 1)`, then DEC. -/
def execRdh (s : State) : Outcome :=
  readThen 1 s (fun t => .next (raise .sourceFault (settle t))) fun v t => .next (endRdh (BitVec.ofNat 8 v) t)

end Sys2Proof.Machine
end

