-- ==== Sys2Proof/Machine/HeaderItems.lean ====
section
/-! DEFINITION. The classes of header byte (30_encoding.md R53, R60): what the Caller's HDR does once the header byte has been
read, that is its `RDM @prev.info`, and the Header record it yields (R65; log entry 1). -/

namespace Sys2Proof.Machine

/-- What an HDR yields from the end of its RDM (R65). -/
def Phase2.hdrYield (mt : MajorType) : Phase2 → HdrYield
  | .got r => .header ⟨mt, r⟩
  | .failed e => .error e

/-- Phase 2 of an item with this header byte: the RDM returns, and the HDR yields. -/
def runItem (mt : MajorType) (info : AdditionalInfo) (s : State) : Outcome :=
  readMagnitude info s fun p t => .next (yieldHdr (p.hdrYield mt) (endRdm p t))

/-- HDR_DIRECT_0_15 (R87). -/
def execHdrDirect0To15 (mt : MajorType) (info : AdditionalInfo) (s : State) : Outcome := runItem mt info s

/-- HDR_DIRECT_16_23 (R87). -/
def execHdrDirect16To23 (mt : MajorType) (info : AdditionalInfo) (s : State) : Outcome := runItem mt info s

/-- HDR_AI24 (R88). -/
def execHdrAi24 (mt : MajorType) (s : State) : Outcome := runItem mt 24 s

/-- HDR_AI25 (R89). -/
def execHdrAi25 (mt : MajorType) (s : State) : Outcome := runItem mt 25 s

/-- HDR_AI26 (R90). -/
def execHdrAi26 (mt : MajorType) (s : State) : Outcome := runItem mt 26 s

/-- HDR_AI27 (R91). -/
def execHdrAi27 (mt : MajorType) (s : State) : Outcome := runItem mt 27 s

/-- HDR_AI28_RESERVED (R92). -/
def execHdrAi28 (mt : MajorType) (s : State) : Outcome := runItem mt 28 s

/-- HDR_AI29_RESERVED (R92). -/
def execHdrAi29 (mt : MajorType) (s : State) : Outcome := runItem mt 29 s

/-- HDR_AI30_RESERVED (R92). -/
def execHdrAi30 (mt : MajorType) (s : State) : Outcome := runItem mt 30 s

/-- HDR_AI31_INDEFINITE (R93). -/
def execHdrAi31 (mt : MajorType) (s : State) : Outcome := runItem mt 31 s

end Sys2Proof.Machine
end

