-- ==== Sys2Proof/Machine/Dispatch.lean ====
section
/-! DEFINITION. One arm per instruction. -/

namespace Sys2Proof.Machine

-- ENC, DEC, RDM, RDH (R61); then the classes of header byte (R53).
def exec (i : Instr) (s : State) : Host.Outcome State Fault Refusal :=
  match i with
  | .enc mt mag => Sys2Proof.Machine.execEnc mt mag s
  | .dec hb => Sys2Proof.Machine.execDec hb s
  | .rdm info => Sys2Proof.Machine.execRdm info s
  | .rdh => Sys2Proof.Machine.execRdh s
  | .hdrDirect0To15 mt info => Sys2Proof.Machine.execHdrDirect0To15 mt info s
  | .hdrDirect16To23 mt info => Sys2Proof.Machine.execHdrDirect16To23 mt info s
  | .hdrAi24 mt => Sys2Proof.Machine.execHdrAi24 mt s
  | .hdrAi25 mt => Sys2Proof.Machine.execHdrAi25 mt s
  | .hdrAi26 mt => Sys2Proof.Machine.execHdrAi26 mt s
  | .hdrAi27 mt => Sys2Proof.Machine.execHdrAi27 mt s
  | .hdrAi28 mt => Sys2Proof.Machine.execHdrAi28 mt s
  | .hdrAi29 mt => Sys2Proof.Machine.execHdrAi29 mt s
  | .hdrAi30 mt => Sys2Proof.Machine.execHdrAi30 mt s
  | .hdrAi31 mt => Sys2Proof.Machine.execHdrAi31 mt s

end Sys2Proof.Machine
end

