-- ==== Sys2Proof/Machine/Operands.lean ====
section
/-! DEFINITION. Where a command's operands come from: the literal word and the MAG port (R61, R63), `@n.info` (R64) and
`@prev.info` of an HDR (R65), and the stream bindings (R28). -/

namespace Sys2Proof.Machine

/-- The Phase1 result of line n, where it returned one (R64). -/
def phase1At (results : List Result) (n : Nat) : Option Phase1 :=
  match results[n]? with
  | some (.ok (.phase1 p)) => some p
  | _ => none

/-- The instruction that line number `at_` of a Caller program issues, from the results of the lines before it. The second
line of an HDR is the instruction of the header byte that the first line read (R65; log entry 1). -/
def resolveAt (at_ : Nat) (results : List Result) (op : LineOp) : Except Refusal Instr :=
  match op with
  | .word w mag =>
    match decodeCommand w mag with
    | .ok i => .ok i
    | .error (.mustBeZero v) => .error (.mustBeZero v)
  | .rdmAt n =>
    match phase1At results n with
    | some p => .ok (.rdm p.info)
    | none => .error (.unresolvedInfo n)
  | .hdr => .ok .rdh
  | .hdrRest =>
    match at_ with
    | 0 => .error (.unresolvedInfo 0)
    | n + 1 =>
      match phase1At results n with
      | some p => .ok (headerInstr p)
      | none => .error (.unresolvedInfo n)

/-- The line's content resolved where the Codec now stands. -/
def resolve (op : LineOp) (c : Codec) : Except Refusal Instr := resolveAt c.k c.results op

/-- The Caller binds the line's streams to the command (R28, R63). -/
def bindLine (l : Line) (s : State) : State := { s with boundSink := l.sink, boundSource := l.source }

/-- A command in progress and a command issued by a line are bound to one stream (R45, R130). -/
def sharesStream (f : InFlight) (i : Instr) (l : Line) : Bool :=
  (usesSink f.instr && usesSink i && f.line.sink == l.sink) ||
  (usesSource f.instr && usesSource i && f.line.source == l.source)

/-- Some other instance has a command in progress on a stream the command would use (R45). -/
def overlaps (i : Instr) (l : Line) (s : State) : Bool :=
  s.others.any fun c =>
    match c.inFlight with
    | some f => sharesStream f i l
    | none => false

end Sys2Proof.Machine
end

