-- ==== Sys2Proof/Machine/Sequencer.lean ====
section
/-! DEFINITION. The Caller's moves: running the next line, issuing one and letting it return, reset, turning to another
instance (R15, R44, R45, R65, R118, R120, R123). -/

namespace Sys2Proof.Machine

/-! ### Issuing a line -/

/-- What stands before a command can be issued: the previous command has returned (R123), there is a next line (R131), it
resolves to an instruction (R62, R64), and no other instance has a command in progress on its stream (R45). -/
inductive Issue where
  | ready (i : Instr) (l : Line)
  | ended
  | refused (r : Refusal)

/-- The next line of the acting Codec, looked at for issuing. -/
def nextIssue (s : State) : Issue :=
  match s.inst.inFlight with
  | some _ => .refused .instanceBusy
  | none =>
    match s.inst.program[s.inst.k]? with
    | none => .ended
    | some l =>
      match resolve l.op s.inst with
      | .error r => .refused r
      | .ok i => if overlaps i l s then .refused .streamOverlap else .ready i l

/-- An HDR whose RDH failed yields the RDH error (R65). -/
def noteHdrError (s : State) : State :=
  match s.inst.result with
  | some (.err e) => yieldHdr (.error e) s
  | _ => s

/-- After the RDH of an HDR: if it split a header byte and the next line is the HDR's second one, that byte's instruction runs
in the same step; if it failed, the RDM is not issued (R65; log entries 2 and 13). -/
def continueHdr (l : Line) (s : State) : Outcome :=
  match s.inst.result with
  | some (.ok (.phase1 p)) =>
    if s.inst.program[s.inst.k]? = some ⟨.hdrRest, l.sink, l.source⟩ then exec (headerInstr p) s else .next s
  | _ => .next (noteHdrError s)

/-- A line's command runs to its result; an HDR runs both of its commands. -/
def runLine (i : Instr) (l : Line) (s : State) : Outcome :=
  match exec i (bindLine l s) with
  | .next t => if l.op = .hdr then continueHdr l t else .next t
  | .fault r => .fault r
  | .refused r => .refused r

/-- The event `run`. -/
def runNext (s : State) : Outcome :=
  match nextIssue s with
  | .ready i l => runLine i l s
  | .ended => .fault .endOfProgram
  | .refused r => .refused r

/-- The event `issue`: the command is in progress, and the result port holds the last result no longer (R30). -/
def issueNext (s : State) : Outcome :=
  match nextIssue s with
  | .ready i l => .next { s with inst := { s.inst with result := none, inFlight := some ⟨i, l⟩ } }
  | .ended => .fault .endOfProgram
  | .refused r => .refused r

/-- The event `finish`: the command in progress has its effect and returns (log entry 10). -/
def finishCommand (s : State) : Outcome :=
  match s.inst.inFlight with
  | none => .refused .nothingInFlight
  | some f =>
    match exec f.instr (bindLine f.line s) with
    | .next t => .next (if f.line.op = .hdr then noteHdrError t else t)
    | .fault r => .fault r
    | .refused r => .refused r

/-! ### Reset of an instance (R120) -/

/-- A command in progress leaves a drawn prefix of its bytes in its Sink (R120). -/
def abandonWrite (bs : List Byte) (s : State) : State :=
  match s.sink? with
  | none => s
  | some k => partialWrite k bs s

/-- A command in progress that reads leaves a drawn number of its bytes taken from its Source (R120), where no RDM is due then
(R124). -/
def abandonRead (n : Nat) (s : State) : State :=
  if n = 0 then s else settle (match s.source? with
    | none => s
    | some q => partialRead q n s)

/-- The streams of the command in progress, as after a collaborator fault (R120). -/
def abandon (f : InFlight) (s : State) : State :=
  abandonRead (readLength f.instr) (abandonWrite (writeBytes f.instr) (bindLine f.line s))

/-- The event `reset` (R120): a command in progress does not complete; the result port becomes unspecified; nothing else of
the instance changes (log entry 11). -/
def resetCodec (s : State) : State :=
  let t := match s.inst.inFlight with
    | none => s
    | some f => abandon f s
  { t with inst := { t.inst with result := none, inFlight := none } }

/-! ### The other instances (R118) -/

/-- The event `switchTo`: the acting Codec changes places with the n-th of the other ones. -/
def switchTo (n : Nat) (s : State) : Outcome :=
  match s.others[n]? with
  | none => .refused .noSuchInstance
  | some c => .next { s with inst := c, others := s.others.set n s.inst }

/-- One move of the Callers. -/
def act (e : Event) (s : State) : Outcome :=
  match e with
  | .run => runNext s
  | .issue => issueNext s
  | .finish => finishCommand s
  | .reset => .next (resetCodec s)
  | .switchTo n => switchTo n s

/-! ### Placing an instruction where the next step finds it (log entry 6) -/

/-- A line put at a place of a program; a program too short is filled up with `DEC 0x00`. -/
def placeLine : Nat → Line → List Line → List Line
  | 0, l, [] => [l]
  | 0, l, _ :: rest => l :: rest
  | n + 1, l, [] => ⟨.word 0x4000#16 0, 0, 0⟩ :: placeLine n l []
  | n + 1, l, a :: rest => a :: placeLine n l rest

/-- A command word, with MAG 0, as the acting Codec's next line, with the streams that are bound now. -/
def placeCommand (w : Nat) (s : State) : State :=
  { s with inst := { s.inst with
      program := placeLine s.inst.k ⟨.word (BitVec.ofNat 16 w) 0, s.boundSink, s.boundSource⟩ s.inst.program } }

/-- The place of the bound Source, or of a new one where none is bound. -/
def headerSource (s : State) : Nat :=
  match s.source? with
  | some _ => s.boundSource
  | none => s.sources.length

/-- A header byte and eight zero bytes at the front of the bound Source, whose next answer accepts; a new Source where none is
bound. -/
def placeBytes (w : Nat) (s : State) : List Source :=
  let bs := BitVec.ofNat 8 w :: List.replicate 8 (0 : Byte)
  match s.source? with
  | some q => s.sources.set s.boundSource { bytes := bs ++ q.bytes, answers := .accept :: q.answers }
  | none => s.sources ++ [{ bytes := bs, answers := [] }]

/-- A header byte at the front of the bound Source, and an HDR as the acting Codec's next two lines. -/
def placeHeader (w : Nat) (s : State) : State :=
  { s with
    inst := { s.inst with
      program := placeLine (s.inst.k + 1) ⟨.hdrRest, s.boundSink, headerSource s⟩
        (placeLine s.inst.k ⟨.hdr, s.boundSink, headerSource s⟩ s.inst.program) }
    sources := placeBytes w s }

/-- An instruction of the opcode table placed so that the next step runs it. -/
def placeInstr (nbits w : Nat) (s : State) : State :=
  let t := { s with events := [], inst := { s.inst with inFlight := none } }
  if nbits = 16 then placeCommand w t else if nbits = 8 then placeHeader w t else s

end Sys2Proof.Machine
end

