-- ==== Sys2Proof/Machine/Step.lean ====
section
/-! DEFINITION. One step: the Callers' next move. -/

namespace Sys2Proof.Machine

/-- One step: the next move of `events`, or a run of the acting Codec's next line where none is listed. -/
def step (s : State) : Host.Outcome State Fault Refusal :=
  match s.events with
  | [] => act .run s
  | e :: es => act e { s with events := es }

/-- The instruction of an opcode-table row stored where the next step fetches it (log entry 6). -/
def State.withFetchWord (s : State) (nbits w : Nat) : State := placeInstr nbits w s

end Sys2Proof.Machine
end

