-- ==== Sys2Proof/Machine/Flags.lean ====
section
/-! DEFINITION. The block has no flags (R16). What tells an outcome apart is the 3-bit status code beside the payload on the
result port (R106). -/

namespace Sys2Proof.Machine

/-- The status code of an error kind (R106). -/
def ErrorKind.status : ErrorKind → BitVec 3
  | .negativeMagnitude _ => 1
  | .magnitudeOverflow _ => 2
  | .reservedAdditionalInfo _ => 3
  | .sinkFault => 4
  | .sourceFault => 5

/-- The status code of a result (R106). -/
def Result.status : Result → BitVec 3
  | .ok _ => 0
  | .err e => e.status

/-- The status code on the result port, where the port is specified (R30, R106). -/
def Codec.status (c : Codec) : Option (BitVec 3) := c.result.map Result.status

end Sys2Proof.Machine
end

