-- ==== Sys2Proof/Safety.lean ====
section
/-! DEFINITION. The words in which statements about the machine are written: what a stream is ready for, what returning a result
means, what an instruction leaves alone, the invariants, and the Caller's two-phase obligation. -/

namespace Sys2Proof.Machine

/-! ### The streams a command is bound to -/

/-- The bytes in the bound Sink. -/
def State.sinkBytes (s : State) : List Byte := (s.sink?.map Sink.bytes).getD []

/-- The bytes the bound Source will yield. -/
def State.sourceBytes (s : State) : List Byte := (s.source?.map Source.bytes).getD []

/-- A Sink is bound, and it accepts its next n write accesses. -/
def SinkAccepts (n : Nat) (s : State) : Prop := ∃ k, s.sink? = some k ∧ Answer.fault ∉ k.answers.take n

/-- A Sink is bound, and it signals a fault on one of its next n write accesses. -/
def SinkFaults (n : Nat) (s : State) : Prop := ∃ k, s.sink? = some k ∧ Answer.fault ∈ k.answers.take n

/-- A Source is bound, and it does not signal "stream closed" on its next n read accesses. -/
def SourceOpen (n : Nat) (s : State) : Prop := ∃ q, s.source? = some q ∧ Answer.fault ∉ q.answers.take n

/-- A Source is bound, and a read of n bytes fails: it signals "stream closed", or the read is short (R36). -/
def SourceFails (n : Nat) (s : State) : Prop :=
  ∃ q, s.source? = some q ∧ (q.answers.head? = some .fault ∨ q.bytes.length < n)

/-- How many write accesses ENC makes for a magnitude in range (R38). -/
def writeAccesses (m : Int) : Nat := if m ≤ 23 then 1 else 2

/-! ### Returning a result, and frames -/

/-- The instruction completes in t with result r: r stands on the result port (R30), it is kept in the Caller's list (R131), the
Caller's index has moved on by one (R15), and nothing is in progress. -/
structure Returns (i : Instr) (s : State) (r : Result) (t : State) : Prop where
  next : exec i s = .next t
  port : t.inst.result = some r
  kept : t.inst.results = s.inst.results ++ [r]
  index : t.inst.k = s.inst.k + 1
  idle : t.inst.inFlight = none

/-- What no instruction changes: the instance's number, the Caller's program and coming moves, the other instances, the stream
bindings. -/
structure KeepsCaller (s t : State) : Prop where
  id : t.inst.id = s.inst.id
  program : t.inst.program = s.inst.program
  others : t.others = s.others
  events : t.events = s.events
  boundSink : t.boundSink = s.boundSink
  boundSource : t.boundSource = s.boundSource

/-- Every Sink but the bound one is as before. -/
def OtherSinksKept (s t : State) : Prop :=
  t.sinks.length = s.sinks.length ∧ ∀ j, j ≠ s.boundSink → t.sinks[j]? = s.sinks[j]?

/-- Every Source but the bound one is as before. -/
def OtherSourcesKept (s t : State) : Prop :=
  t.sources.length = s.sources.length ∧ ∀ j, j ≠ s.boundSource → t.sources[j]? = s.sources[j]?

/-- The instructions of the header-byte rows (R53, R60). -/
def isItem : Instr → Bool
  | .enc _ _ => false
  | .dec _ => false
  | .rdm _ => false
  | .rdh => false
  | .hdrDirect0To15 _ _ => true
  | .hdrDirect16To23 _ _ => true
  | .hdrAi24 _ => true
  | .hdrAi25 _ => true
  | .hdrAi26 _ => true
  | .hdrAi27 _ => true
  | .hdrAi28 _ => true
  | .hdrAi29 _ => true
  | .hdrAi30 _ => true
  | .hdrAi31 _ => true

/-- An info value whose header can carry the magnitude m (R53): a direct one is the magnitude, a field of T bytes holds
anything below 2^(8T). -/
def canCarry (info : AdditionalInfo) (m : Nat) : Prop :=
  if info.toNat < 24 then m = info.toNat else info.toNat ≤ 27 ∧ m < 2 ^ (8 * trailingBytes info)

/-! ### Invariants -/

/-- The errors that carry what R101, R102 and R103 say they carry. -/
def ErrorKind.legal : ErrorKind → Prop
  | .negativeMagnitude v => v < 0
  | .magnitudeOverflow v => v > 2 ^ 64 - 1
  | .reservedAdditionalInfo info => 28 ≤ info.toNat ∧ info.toNat ≤ 30
  | .sinkFault => True
  | .sourceFault => True

/-- The results that commands return (R26, R106). -/
def Result.legal : Result → Prop
  | .ok (.count n) => n ∈ [1, 2, 3, 5, 9]
  | .ok (.phase1 _) => True
  | .ok (.resolved _) => True
  | .err e => e.legal

/-- What an HDR yields: a Header, or an error of an RDH or an RDM (R65, R106). -/
def HdrYield.legal : HdrYield → Prop
  | .header _ => True
  | .error (.reservedAdditionalInfo info) => 28 ≤ info.toNat ∧ info.toNat ≤ 30
  | .error .sourceFault => True
  | .error _ => False

/-- The invariant of an instance: one result is kept for each command completed (R15, R131), each of them legal, as is what
each HDR yielded; the result port holds the last of them or nothing (R30), and nothing while a command is in progress; a
command in progress is well formed, and for the first line of an HDR it is RDH (R65). -/
structure Codec.Inv (c : Codec) : Prop where
  counted : c.results.length = c.k
  legal : ∀ r ∈ c.results, r.legal
  yields : ∀ y ∈ c.headers, y.legal
  port : ∀ r, c.result = some r → c.results.getLast? = some r
  busy : ∀ f, c.inFlight = some f → c.result = none
  formed : ∀ f, c.inFlight = some f → f.instr.wellFormed = true
  hdrLine : ∀ f, c.inFlight = some f → f.line.op = .hdr → f.instr = .rdh

/-- The invariant of the machine: that of every instance, no two of which have one number, and at most one RDM due on each Source,
places rising. -/
structure State.Inv (s : State) : Prop where
  inst : s.inst.Inv
  others : ∀ c ∈ s.others, c.Inv
  distinct : (s.inst :: s.others).Pairwise fun c d => c.id ≠ d.id
  due : s.due.Pairwise fun a b => a.source < b.source

/-- Two instances have no commands in progress on one stream (R45). -/
def Codec.apart (c d : Codec) : Prop :=
  ∀ f g, c.inFlight = some f → d.inFlight = some g → sharesStream f g.instr g.line = false

/-- No two commands in progress overlap on a stream (R45). -/
def State.exclusive (s : State) : Prop := (s.inst :: s.others).Pairwise Codec.apart

/-! ### The Caller's two-phase obligation (R124) -/

/-- A line that issues an RDH: its command word (R61), or the first line of an HDR (R65). -/
def isRdhLine : LineOp → Bool
  | .word w _ => w == 0xC000#16
  | .rdmAt _ => false
  | .hdr => true
  | .hdrRest => false

/-- The line that the next line of a Codec takes an info from (R64, R65). -/
def infoLine (c : Codec) : LineOp → Option Nat
  | .word _ _ => none
  | .rdmAt n => some n
  | .hdr => none
  | .hdrRest => some (c.k - 1)

/-- The RDH line whose item the next line of a Codec names: the line it takes the info from, where that is an RDH's. A literal RDM
names none, and neither does one that takes its info from a DEC. -/
def itemLine (c : Codec) (op : LineOp) : Option Nat :=
  (infoLine c op).filter fun n => c.program[n]?.any fun l => isRdhLine l.op

/-- A header's RDM that is due is the one that the acting Codec's next line, on this Source, with this info, stands for: the same
instance read the header byte, by the line that the RDM names where it names one. -/
def DueRdm.matches (e : DueRdm) (c : Codec) (l : Line) (info : AdditionalInfo) : Bool :=
  e.source == l.source && e.owner == c.id && e.info == info && (itemLine c l.op).all (· == e.line)

/-- The obligation for the acting Codec's next line (R124): if it is an RDM, then the last access to its Source was the read of its
item's header byte, the RDM's info is that byte's, and no RDM has followed. The block does not check it. -/
def State.twoPhaseOk (s : State) : Bool :=
  match s.inst.program[s.inst.k]? with
  | none => true
  | some l =>
    match resolve l.op s.inst with
    | .error _ => true
    | .ok i =>
      match readInfo i with
      | none => true
      | some info => s.due.any fun e => e.matches s.inst l info

/-- The acting Codec's next line is an RDM, or the second line of an HDR, on this Source, with this info, and names the item of this
RDH line of its program, where it names one. -/
def NextRdm (s : State) (source : Nat) (item : Option Nat) (info : AdditionalInfo) : Prop :=
  ∃ l i, s.inst.program[s.inst.k]? = some l ∧ l.source = source ∧ itemLine s.inst l.op = item ∧
    resolve l.op s.inst = .ok i ∧ readInfo i = some info

end Sys2Proof.Machine
end

