-- ==== Sys2Proof/Certificates/Slice0/Obligations.lean ====
section
/-! DEFINITION. The statements for the provers. -/

open Sys2Proof Sys2Proof.Machine

/-! ### ENC (41_encoder.md) -/

/-- R72. -/
def Obligations.EncNegativeWritesNothing : Prop :=
  ∀ (mt : MajorType) (m : Int) (s : State), m < 0 →
    ∃ t, Returns (.enc mt m) s (.err (.negativeMagnitude m)) t ∧ t.sinks = s.sinks

/-- R73. -/
def Obligations.EncDirectTierEmitsOneByte : Prop :=
  ∀ (mt : MajorType) (m : Int) (s : State), 0 ≤ m → m ≤ 23 → SinkAccepts 1 s →
    ∃ t, Returns (.enc mt m) s (.ok (.count 1)) t ∧
      t.sinkBytes = s.sinkBytes ++ [((mtCode mt).setWidth 8 <<< 5) ||| BitVec.ofInt 8 m]

/-- R74. -/
def Obligations.EncOneByteTierEmitsTwoBytes : Prop :=
  ∀ (mt : MajorType) (m : Int) (s : State), 24 ≤ m → m ≤ 255 → SinkAccepts 2 s →
    ∃ t, Returns (.enc mt m) s (.ok (.count 2)) t ∧
      t.sinkBytes = s.sinkBytes ++ [((mtCode mt).setWidth 8 <<< 5) ||| 24#8, BitVec.ofInt 8 m]

/-- R75. -/
def Obligations.EncTwoByteTierEmitsThreeBytes : Prop :=
  ∀ (mt : MajorType) (m : Int) (s : State), 256 ≤ m → m ≤ 65535 → SinkAccepts 2 s →
    ∃ t, Returns (.enc mt m) s (.ok (.count 3)) t ∧
      t.sinkBytes = s.sinkBytes ++
        [((mtCode mt).setWidth 8 <<< 5) ||| 25#8, BitVec.ofInt 8 (m / 2 ^ 8), BitVec.ofInt 8 m]

/-- R76. -/
def Obligations.EncFourByteTierEmitsFiveBytes : Prop :=
  ∀ (mt : MajorType) (m : Int) (s : State), 65536 ≤ m → m ≤ 4294967295 → SinkAccepts 2 s →
    ∃ t, Returns (.enc mt m) s (.ok (.count 5)) t ∧
      t.sinkBytes = s.sinkBytes ++
        [((mtCode mt).setWidth 8 <<< 5) ||| 26#8, BitVec.ofInt 8 (m / 2 ^ 24), BitVec.ofInt 8 (m / 2 ^ 16),
          BitVec.ofInt 8 (m / 2 ^ 8), BitVec.ofInt 8 m]

/-- R77, with its clause on the two's-complement pattern of `m − 2^64`. -/
def Obligations.EncEightByteTierEmitsNineBytes : Prop :=
  ∀ (mt : MajorType) (m : Int) (s : State), 4294967296 ≤ m → m ≤ 2 ^ 64 - 1 → SinkAccepts 2 s →
    ∃ t, Returns (.enc mt m) s (.ok (.count 9)) t ∧
      t.sinkBytes = s.sinkBytes ++ (((mtCode mt).setWidth 8 <<< 5) ||| 27#8) ::
        (List.range 8).map (fun j => BitVec.ofInt 8 (m / 2 ^ (8 * (7 - j)))) ∧
      (m > 2 ^ 63 - 1 →
        t.sinkBytes = s.sinkBytes ++ (((mtCode mt).setWidth 8 <<< 5) ||| 27#8) ::
          (List.range 8).map (fun j => (BitVec.ofInt 64 (m - 2 ^ 64)).extractLsb' (8 * (7 - j)) 8))

/-- R78. -/
def Obligations.EncOverflowWritesNothing : Prop :=
  (∀ (mt : MajorType) (m : Int) (s : State), m > 2 ^ 64 - 1 →
    ∃ t, Returns (.enc mt m) s (.err (.magnitudeOverflow m)) t ∧ t.sinks = s.sinks) ∧
  (∀ (mt : MajorType) (s : State), SinkAccepts 2 s →
    ∃ t, Returns (.enc mt (2 ^ 64 - 1)) s (.ok (.count 9)) t)

/-- R83 (derived by the spec), with the count of R79: the number of bytes appended, `1 + T(info)`. -/
def Obligations.EncAppendsClosedForm : Prop :=
  ∀ (mt : MajorType) (m : Int) (s : State), 0 ≤ m → m ≤ 2 ^ 64 - 1 → SinkAccepts (writeAccesses m) s →
    ∃ t, Returns (.enc mt m) s (.ok (.count (encodeBytes (mtCode mt) m.toNat).length)) t ∧
      t.sinkBytes = s.sinkBytes ++ encodeBytes (mtCode mt) m.toNat ∧
      (encodeBytes (mtCode mt) m.toNat).length ∈ [1, 2, 3, 5, 9] ∧
      (encodeBytes (mtCode mt) m.toNat).length = 1 + trailingBytes (infoOf m.toNat)

/-- R81 (derived by the spec): of the info values that can carry the magnitude, ENC emits the smallest, and the length is the
tier's. -/
def Obligations.EncEmitsMinimalInfo : Prop :=
  ∀ (mt : MajorType) (m : Int) (s : State), 0 ≤ m → m ≤ 2 ^ 64 - 1 → SinkAccepts (writeAccesses m) s →
    ∃ t hb rest, exec (.enc mt m) s = .next t ∧ t.sinkBytes = s.sinkBytes ++ hb :: rest ∧
      canCarry (headerInfo hb) m.toNat ∧
      (∀ i, canCarry i m.toNat → (headerInfo hb).toNat ≤ i.toNat) ∧
      (headerInfo hb).toNat ≤ 27 ∧
      (hb :: rest).length =
        (if m ≤ 23 then 1 else if m ≤ 255 then 2 else if m ≤ 65535 then 3 else if m ≤ 4294967295 then 5 else 9)

/-- R82. -/
def Obligations.EncMajorTypeOnlySetsTopBits : Prop :=
  ∀ (mt mt' : MajorType) (m : Int) (s : State), 0 ≤ m → m ≤ 2 ^ 64 - 1 → SinkAccepts (writeAccesses m) s →
    ∃ t t' hb hb' rest,
      exec (.enc mt m) s = .next t ∧ t.sinkBytes = s.sinkBytes ++ hb :: rest ∧ headerCode hb = mtCode mt ∧
      exec (.enc mt' m) s = .next t' ∧ t'.sinkBytes = s.sinkBytes ++ hb' :: rest ∧ headerCode hb' = mtCode mt' ∧
      headerInfo hb = headerInfo hb' ∧ t.inst.result = t'.inst.result

/-- R80 (the spec's decision D12): a Sink fault leaves a prefix of the command's bytes, of a length that nothing fixes (log
entry 3). -/
def Obligations.EncSinkFaultLeavesPrefix : Prop :=
  ∀ (mt : MajorType) (m : Int) (s : State), 0 ≤ m → m ≤ 2 ^ 64 - 1 → SinkFaults (writeAccesses m) s →
    ∃ t j, Returns (.enc mt m) s (.err .sinkFault) t ∧ j ≤ (encodeBytes (mtCode mt) m.toNat).length ∧
      t.sinkBytes = s.sinkBytes ++ (encodeBytes (mtCode mt) m.toNat).take j

/-- The frame of ENC: it appends a prefix of its bytes to the bound Sink, and touches no other stream. -/
def Obligations.EncFrame : Prop :=
  ∀ (mt : MajorType) (m : Int) (s t : State), exec (.enc mt m) s = .next t →
    KeepsCaller s t ∧ OtherSinksKept s t ∧ t.sources = s.sources ∧ t.inst.headers = s.inst.headers ∧ t.due = s.due ∧
    (∃ r, Returns (.enc mt m) s r t) ∧
    ∃ j, t.sinkBytes = s.sinkBytes ++ (writeBytes (.enc mt m)).take j

/-- What ENC returns and leaves in its Sink depends on the Sink alone (R46); the draw counter stands for the free value. -/
def Obligations.EncDependsOnItsSinkOnly : Prop :=
  ∀ (mt : MajorType) (m : Int) (s s' : State), s.sink? = s'.sink? → s.draws = s'.draws → s.sink?.isSome = true →
    ∃ r t t', Returns (.enc mt m) s r t ∧ Returns (.enc mt m) s' r t' ∧ t.sink? = t'.sink?

/-! ### DEC (42_decoder.md, Phase 1) -/

/-- R84. -/
def Obligations.DecSplitsHeaderByte : Prop :=
  ∀ (hb : Byte) (s : State),
    ∃ t, Returns (.dec hb) s
        (.ok (.phase1 ⟨mtOfCode (((hb >>> 5) &&& 0x07#8).setWidth 3), (hb &&& 0x1F#8).setWidth 5⟩)) t ∧
      t.sinks = s.sinks ∧ t.sources = s.sources

/-- R85 (derived by the spec). -/
def Obligations.DecIsPureAndInvertible : Prop :=
  ∀ (hb : Byte) (s s' : State),
    ∃ p t t', Returns (.dec hb) s (.ok (.phase1 p)) t ∧ Returns (.dec hb) s' (.ok (.phase1 p)) t' ∧
      t.sinks = s.sinks ∧ t.sources = s.sources ∧
      ((mtCode p.mt).setWidth 8 <<< 5) ||| p.info.setWidth 8 = hb

/-- The frame of DEC. -/
def Obligations.DecFrame : Prop :=
  ∀ (hb : Byte) (s t : State), exec (.dec hb) s = .next t →
    KeepsCaller s t ∧ t.sinks = s.sinks ∧ t.sources = s.sources ∧ t.inst.headers = s.inst.headers ∧
    t.draws = s.draws ∧ t.due = s.due ∧ ∃ r, Returns (.dec hb) s r t

/-! ### RDM and RDH (42_decoder.md, Phase 2 and composite) -/

/-- R87. -/
def Obligations.RdmDirectInfoIsTheMagnitude : Prop :=
  ∀ (info : AdditionalInfo) (s : State), info.toNat < 24 →
    ∃ t, Returns (.rdm info) s (.ok (.resolved (.mag (info.setWidth 64)))) t ∧ t.sources = s.sources

/-- R88. -/
def Obligations.RdmReadsOneByte : Prop :=
  ∀ (s : State) (b0 : Byte) (rest : List Byte), SourceOpen 1 s → s.sourceBytes = b0 :: rest →
    ∃ t, Returns (.rdm 24) s (.ok (.resolved (.mag (b0.setWidth 64)))) t ∧ t.sourceBytes = rest

/-- R89. -/
def Obligations.RdmReadsTwoBytes : Prop :=
  ∀ (s : State) (b0 b1 : Byte) (rest : List Byte), SourceOpen 1 s → s.sourceBytes = b0 :: b1 :: rest →
    ∃ t v, Returns (.rdm 25) s (.ok (.resolved (.mag v))) t ∧ v.toNat = b0.toNat * 2 ^ 8 + b1.toNat ∧
      t.sourceBytes = rest

/-- R90. -/
def Obligations.RdmReadsFourBytes : Prop :=
  ∀ (s : State) (b0 b1 b2 b3 : Byte) (rest : List Byte), SourceOpen 1 s →
    s.sourceBytes = b0 :: b1 :: b2 :: b3 :: rest →
    ∃ t v, Returns (.rdm 26) s (.ok (.resolved (.mag v))) t ∧
      v.toNat = b0.toNat * 2 ^ 24 + b1.toNat * 2 ^ 16 + b2.toNat * 2 ^ 8 + b3.toNat ∧
      v.toNat ≤ 4294967295 ∧ (b0.toNat ≥ 0x80 → v.toNat ≥ 2 ^ 31) ∧ t.sourceBytes = rest

/-- R91: the 8-byte pattern p is the result; where it is negative as a signed value, its magnitude is that value plus 2^64. -/
def Obligations.RdmReadsEightBytesUnsigned : Prop :=
  ∀ (s : State) (p : BitVec 64) (rest : List Byte), SourceOpen 1 s →
    s.sourceBytes = (List.range 8).map (fun j => p.extractLsb' (8 * (7 - j)) 8) ++ rest →
    ∃ t, Returns (.rdm 27) s (.ok (.resolved (.mag p))) t ∧ t.sourceBytes = rest ∧
      (p.toInt ≥ 0 → (p.toNat : Int) = p.toInt) ∧
      (p.toInt < 0 → (p.toNat : Int) = p.toInt + 2 ^ 64 ∧ 2 ^ 63 ≤ p.toNat ∧ p.toNat ≤ 2 ^ 64 - 1)

/-- R92; that no byte is read is the spec's decision D9. -/
def Obligations.RdmRejectsReservedInfo : Prop :=
  ∀ (info : AdditionalInfo) (s : State), info = 28 ∨ info = 29 ∨ info = 30 →
    ∃ t, Returns (.rdm info) s (.err (.reservedAdditionalInfo info)) t ∧ t.sources = s.sources

/-- R93. -/
def Obligations.RdmReturnsIndefinite : Prop :=
  ∀ (s : State), ∃ t, Returns (.rdm 31) s (.ok (.resolved .indefinite)) t ∧ t.sources = s.sources

/-- R95 (the spec's decision D11): a field of n bytes is returned as read, whatever shorter form its value has. -/
def Obligations.RdmAcceptsNonMinimalFields : Prop :=
  ∀ (info : AdditionalInfo) (v : Nat) (s : State) (rest : List Byte),
    trailingBytes info ≠ 0 → v < 2 ^ (8 * trailingBytes info) → SourceOpen 1 s →
    s.sourceBytes = beBytes (trailingBytes info) v ++ rest →
    ∃ t, Returns (.rdm info) s (.ok (.resolved (.mag (BitVec.ofNat 64 v)))) t ∧ t.sourceBytes = rest

/-- R97, R36 (the spec's decision D13; log entry 3): a failed read returns SourceFault, after a number of bytes that nothing
fixes but its bound. -/
def Obligations.RdmSourceFaultConsumesSome : Prop :=
  ∀ (info : AdditionalInfo) (s : State), trailingBytes info ≠ 0 → SourceFails (trailingBytes info) s →
    ∃ t j, Returns (.rdm info) s (.err .sourceFault) t ∧
      j ≤ min (trailingBytes info) s.sourceBytes.length ∧ t.sourceBytes = s.sourceBytes.drop j

/-- R96 (the spec's decision D10): the result depends on the info and the Source alone. -/
def Obligations.RdmDependsOnInfoAndSource : Prop :=
  ∀ (info : AdditionalInfo) (s s' : State), s.source? = s'.source? →
    (trailingBytes info = 0 ∨ s.source?.isSome = true) →
    ∃ r t t', Returns (.rdm info) s r t ∧ Returns (.rdm info) s' r t'

/-- R98 (the spec's decision D5), with the draw of R36 (D13; log entry 3). -/
def Obligations.RdhReadsAndSplits : Prop :=
  (∀ (s : State) (hb : Byte) (rest : List Byte), SourceOpen 1 s → s.sourceBytes = hb :: rest →
    ∃ t, Returns .rdh s (.ok (.phase1 ⟨mtOfCode (headerCode hb), headerInfo hb⟩)) t ∧ t.sourceBytes = rest) ∧
  (∀ (s : State), SourceFails 1 s →
    ∃ t j, Returns .rdh s (.err .sourceFault) t ∧ j ≤ min 1 s.sourceBytes.length ∧
      t.sourceBytes = s.sourceBytes.drop j)

/-- The frame of the reading commands: they take at most their own number of bytes from the front of the bound Source, and
touch no other stream. -/
def Obligations.RdmRdhFrame : Prop :=
  ∀ (i : Instr) (s t : State), (i = .rdh ∨ ∃ info, i = .rdm info) → exec i s = .next t →
    KeepsCaller s t ∧ OtherSourcesKept s t ∧ t.sinks = s.sinks ∧ t.inst.headers = s.inst.headers ∧
    (∀ e : DueRdm, e.source ≠ s.boundSource → (e ∈ t.due ↔ e ∈ s.due)) ∧
    (∃ r, Returns i s r t) ∧
    ∃ j, j ≤ readLength i ∧ t.sourceBytes = s.sourceBytes.drop j

/-- R99 (derived by the spec): what ENC appends to a Sink, RDH and RDM read back from a Source. -/
def Obligations.RoundTripOfEncoderAndDecoder : Prop :=
  ∀ (mt : MajorType) (m : Int) (s : State), 0 ≤ m → m ≤ 2 ^ 64 - 1 → SinkAccepts (writeAccesses m) s →
    ∃ t sent, exec (.enc mt m) s = .next t ∧ t.sinkBytes = s.sinkBytes ++ sent ∧
      ∀ (u : State) (rest : List Byte), SourceOpen 2 u → u.sourceBytes = sent ++ rest →
        ∃ u₁ u₂ i v, Returns .rdh u (.ok (.phase1 ⟨mt, i⟩)) u₁ ∧
          Returns (.rdm i) u₁ (.ok (.resolved (.mag v))) u₂ ∧
          (v.toNat : Int) = m ∧ u₂.sourceBytes = rest ∧
          canCarry i m.toNat ∧ ∀ i', canCarry i' m.toNat → i.toNat ≤ i'.toNat

/-! ### The header-byte rows (30_encoding.md R53, R60, R65), as the model reads them (log entry 1) -/

/-- The direct rows: the magnitude is the info, no byte is read, and the HDR yields it under its major type (R87, R65). -/
def Obligations.DirectItemsYieldTheirInfo : Prop :=
  ∀ (mt : MajorType) (info : AdditionalInfo) (s : State) (i : Instr),
    i = .hdrDirect0To15 mt info ∨ i = .hdrDirect16To23 mt info → i.wellFormed = true →
    ∃ t, Returns i s (.ok (.resolved (.mag (info.setWidth 64)))) t ∧ t.sources = s.sources ∧
      t.inst.headers = s.inst.headers ++ [.header ⟨mt, .mag (info.setWidth 64)⟩]

/-- The rows with trailing bytes: the field of 1, 2, 4 or 8 bytes is the magnitude (R88 to R91, R65). -/
def Obligations.FieldItemsYieldTheirField : Prop :=
  ∀ (mt : MajorType) (i : Instr) (n v : Nat) (s : State) (rest : List Byte),
    (i, n) ∈ [(Instr.hdrAi24 mt, 1), (.hdrAi25 mt, 2), (.hdrAi26 mt, 4), (.hdrAi27 mt, 8)] → v < 2 ^ (8 * n) →
    SourceOpen 1 s → s.sourceBytes = beBytes n v ++ rest →
    ∃ t, Returns i s (.ok (.resolved (.mag (BitVec.ofNat 64 v)))) t ∧ t.sourceBytes = rest ∧
      t.inst.headers = s.inst.headers ++ [.header ⟨mt, .mag (BitVec.ofNat 64 v)⟩]

/-- The rows with trailing bytes, where the read fails: the HDR yields the RDM error (R65, R97). -/
def Obligations.FieldItemsYieldSourceFault : Prop :=
  ∀ (mt : MajorType) (i : Instr) (n : Nat) (s : State),
    (i, n) ∈ [(Instr.hdrAi24 mt, 1), (.hdrAi25 mt, 2), (.hdrAi26 mt, 4), (.hdrAi27 mt, 8)] → SourceFails n s →
    ∃ t j, Returns i s (.err .sourceFault) t ∧ j ≤ min n s.sourceBytes.length ∧
      t.sourceBytes = s.sourceBytes.drop j ∧ t.inst.headers = s.inst.headers ++ [.error .sourceFault]

/-- The reserved rows: the error of R92, with no byte read, is what the HDR yields (R65). -/
def Obligations.ReservedItemsYieldTheError : Prop :=
  ∀ (mt : MajorType) (i : Instr) (info : AdditionalInfo) (s : State),
    (i, info) ∈ [(Instr.hdrAi28 mt, 28), (.hdrAi29 mt, 29), (.hdrAi30 mt, 30)] →
    ∃ t, Returns i s (.err (.reservedAdditionalInfo info)) t ∧ t.sources = s.sources ∧
      t.inst.headers = s.inst.headers ++ [.error (.reservedAdditionalInfo info)]

/-- The indefinite row (R93, R65). -/
def Obligations.IndefiniteItemYieldsTheSentinel : Prop :=
  ∀ (mt : MajorType) (s : State),
    ∃ t, Returns (.hdrAi31 mt) s (.ok (.resolved .indefinite)) t ∧ t.sources = s.sources ∧
      t.inst.headers = s.inst.headers ++ [.header ⟨mt, .indefinite⟩]

/-- The frame of the header-byte rows: one more thing yielded, at most their own number of bytes taken from the bound Source. -/
def Obligations.ItemFrame : Prop :=
  ∀ (i : Instr) (s t : State), isItem i = true → exec i s = .next t →
    KeepsCaller s t ∧ OtherSourcesKept s t ∧ t.sinks = s.sinks ∧
    (∃ y, t.inst.headers = s.inst.headers ++ [y]) ∧ (∃ r, Returns i s r t) ∧
    (∀ e : DueRdm, e.source ≠ s.boundSource → (e ∈ t.due ↔ e ∈ s.due)) ∧
    ∃ j, j ≤ readLength i ∧ t.sourceBytes = s.sourceBytes.drop j

/-- A header byte's instruction is the RDM of its info, and yields the Header or the error (R65). -/
def Obligations.ItemIsRdmAndYield : Prop :=
  ∀ (p : Phase1) (s : State),
    (∀ r, exec (.rdm p.info) s = .refused r → exec (headerInstr p) s = .refused r) ∧
    ∀ t, exec (.rdm p.info) s = .next t →
      ∃ y, exec (headerInstr p) s = .next (yieldHdr y t) ∧
        (∀ r, t.inst.result = some (.ok (.resolved r)) → y = .header ⟨p.mt, r⟩) ∧
        (∀ e, t.inst.result = some (.err e) → y = .error e)

/-! ### Results (60_exceptions.md) -/

/-- R106 (the spec's decision D8; log entry 19): the status codes, what each carries, which commands raise it, and
what causes it; with R109 and R110. The header-byte rows are those of log entry 1. -/
def Obligations.StatusCodesAndTheirCauses : Prop :=
  ∀ (i : Instr) (s t : State), exec i s = .next t →
    ∃ r, t.inst.result = some r ∧ t.inst.status = some r.status ∧
      match r with
      | .ok _ => r.status = 0
      | .err (.negativeMagnitude v) => r.status = 1 ∧ v < 0 ∧ ∃ mt, i = .enc mt v
      | .err (.magnitudeOverflow v) => r.status = 2 ∧ v > 2 ^ 64 - 1 ∧ ∃ mt, i = .enc mt v
      | .err (.reservedAdditionalInfo info) =>
        r.status = 3 ∧ (info = 28 ∨ info = 29 ∨ info = 30) ∧ (i = .rdm info ∨ isItem i = true ∧ readInfo i = some info)
      | .err .sinkFault => r.status = 4 ∧ ∃ mt m, i = .enc mt m ∧ 0 ≤ m ∧ m ≤ 2 ^ 64 - 1 ∧
        SinkFaults (writeAccesses m) s
      | .err .sourceFault =>
        r.status = 5 ∧ SourceFails (readLength i) s ∧
          (i = .rdh ∨ ∃ info, readInfo i = some info ∧ 24 ≤ info.toNat ∧ info.toNat ≤ 27)

/-! ### Encodings (30_encoding.md, 40_majortype.md) -/

/-- R70 (derived by the spec). -/
def Obligations.MajorTypeTableIsBijective : Prop :=
  (∀ t : MajorType, mtOfCode (mtCode t) = t) ∧ ∀ c : MtCode, mtCode (mtOfCode c) = c

/-- The fields of a header byte are read back from it, and give it back (R52, R54). -/
def Obligations.HeaderByteFieldsRoundTrip : Prop :=
  (∀ (c : MtCode) (i : AdditionalInfo), headerCode (headerByte c i) = c ∧ headerInfo (headerByte c i) = i) ∧
  ∀ hb : Byte, headerByte (headerCode hb) (headerInfo hb) = hb

/-- R62 (the spec's decision D4): a command word is legal exactly where the mask and the match of its op code say so; a step
refuses any other word. -/
def Obligations.LegalCommandWords : Prop :=
  ∀ (w : CommandWord) (mag : Int),
    ((∃ i, decode (.cmd16 w mag) = .ok i) ↔
      w &&& (if w.extractLsb' 14 2 = 0 then 0xC7FF#16 else if w.extractLsb' 14 2 = 1 then 0xFF00#16
          else if w.extractLsb' 14 2 = 2 then 0xFFE0#16 else 0xFFFF#16) =
        (if w.extractLsb' 14 2 = 0 then 0x0000#16 else if w.extractLsb' 14 2 = 1 then 0x4000#16
          else if w.extractLsb' 14 2 = 2 then 0x8000#16 else 0xC000#16)) ∧
    ∀ (s : State) (snk src : Nat),
      s.events = [] → s.inst.inFlight = none → s.inst.program[s.inst.k]? = some ⟨.word w mag, snk, src⟩ →
      (∀ i, decode (.cmd16 w mag) ≠ .ok i) → step s = .refused (.mustBeZero w)

/-- Decoding gives back every well-formed instruction from its words, every operand with it. -/
def Obligations.DecodeOfEncode : Prop :=
  ∀ i : Instr, i.wellFormed = true → decode (encode i) = .ok i

/-- What decodes is well formed, and encoding it gives back its bits: each word has one meaning (R54, R60, R62). A command that
is not ENC is encoded with a 0 on the MAG port, which it does not look at (log entry 15). -/
def Obligations.EncodeOfDecode : Prop :=
  (∀ (w : CommandWord) (mag : Int) (i : Instr), decode (.cmd16 w mag) = .ok i →
    i.wellFormed = true ∧ encode i = .cmd16 w (if usesSink i then mag else 0)) ∧
  ∀ hb : Byte, ∃ i, decode (.hdr8 hb) = .ok i ∧ i.wellFormed = true ∧ isItem i = true ∧ encode i = .hdr8 hb

/-- Words written out from the spec's tables (R61, 95_test_vectors.md W1 to W10, R60). -/
def Obligations.SpelledWordsDecode : Prop :=
  decode (.cmd16 0b0010000000000000 3) = .ok (.enc .dataArray 3) ∧
  decode (.cmd16 0b0100000010000011 0) = .ok (.dec 0x83) ∧
  decode (.cmd16 0b1000000000011011 0) = .ok (.rdm 27) ∧
  decode (.cmd16 0b1100000000000000 0) = .ok .rdh ∧
  decode (.cmd16 0b1100000000000001 0) = .error (.mustBeZero 0xC001) ∧
  decode (.hdr8 0b10000011) = .ok (.hdrDirect0To15 .dataArray 3) ∧
  decode (.hdr8 0b01111000) = .ok (.hdrAi24 .textString) ∧
  decode (.hdr8 0b11111111) = .ok (.hdrAi31 .simpleValue)

/-- `BE_n` has n bytes, and `BEval` gives its value back (R12, R34). -/
def Obligations.BigEndianBytesRoundTrip : Prop :=
  ∀ n v : Nat, (beBytes n v).length = n ∧ (v < 2 ^ (8 * n) → beVal (beBytes n v) = v) ∧
    ∀ bs : List Byte, beVal bs < 2 ^ (8 * bs.length) ∧ beBytes bs.length (beVal bs) = bs

/-! ### Steps (10_state.md, 20_memory.md, 70_reset_and_hazards.md) -/

/-- A step runs the instruction that the acting Codec's next command word decodes to, with the line's streams bound. -/
def Obligations.StepRunsTheDecodedCommand : Prop :=
  ∀ (s : State) (w : CommandWord) (mag : Int) (snk src : Nat) (i : Instr),
    s.events = [] → s.inst.inFlight = none → s.inst.program[s.inst.k]? = some ⟨.word w mag, snk, src⟩ →
    decode (.cmd16 w mag) = .ok i → overlaps i ⟨.word w mag, snk, src⟩ s = false →
    step s = exec i { s with boundSink := snk, boundSource := src }

/-- A step on an HDR reads the header byte by RDH, and then runs the instruction that this byte decodes to (log
entries 1 and 2). -/
def Obligations.StepRunsTheDecodedHeader : Prop :=
  ∀ (s : State) (snk src : Nat) (hb : Byte) (rest : List Byte),
    s.events = [] → s.inst.inFlight = none → s.inst.program[s.inst.k]? = some ⟨.hdr, snk, src⟩ →
    s.inst.program[s.inst.k + 1]? = some ⟨.hdrRest, snk, src⟩ → overlaps .rdh ⟨.hdr, snk, src⟩ s = false →
    SourceOpen 1 { s with boundSink := snk, boundSource := src } →
    State.sourceBytes { s with boundSink := snk, boundSource := src } = hb :: rest →
    ∃ t i, Returns .rdh { s with boundSink := snk, boundSource := src } (.ok (.phase1 (splitHeader hb))) t ∧
      t.sourceBytes = rest ∧ decode (.hdr8 hb) = .ok i ∧ step s = exec i t

/-- An HDR whose RDH fails: the RDM is not issued, and the HDR yields the RDH error (R65, the spec's decision D18; R110). So
it is where a step runs the line, and where it lets the RDH return that an earlier step issued from that line. -/
def Obligations.HdrYieldsTheRdhError : Prop :=
  (∀ (s : State) (snk src : Nat), (s.events = [] ∨ s.events.head? = some .run) →
    s.inst.inFlight = none → s.inst.program[s.inst.k]? = some ⟨.hdr, snk, src⟩ →
    overlaps .rdh ⟨.hdr, snk, src⟩ s = false → SourceFails 1 { s with boundSink := snk, boundSource := src } →
    ∃ t, step s = .next t ∧ t.inst.result = some (.err .sourceFault) ∧
      t.inst.results = s.inst.results ++ [.err .sourceFault] ∧ t.inst.k = s.inst.k + 1 ∧
      t.inst.headers = s.inst.headers ++ [.error .sourceFault]) ∧
  (∀ (s : State) (snk src : Nat), s.events.head? = some .issue →
    s.inst.inFlight = none → s.inst.program[s.inst.k]? = some ⟨.hdr, snk, src⟩ →
    overlaps .rdh ⟨.hdr, snk, src⟩ s = false →
    ∃ t, step s = .next t ∧ t.inst = { s.inst with result := none, inFlight := some ⟨.rdh, ⟨.hdr, snk, src⟩⟩ }) ∧
  (∀ (s : State) (snk src : Nat), s.events.head? = some .finish →
    s.inst.inFlight = some ⟨.rdh, ⟨.hdr, snk, src⟩⟩ → SourceFails 1 { s with boundSink := snk, boundSource := src } →
    ∃ t, step s = .next t ∧ t.inst.result = some (.err .sourceFault) ∧
      t.inst.results = s.inst.results ++ [.err .sourceFault] ∧ t.inst.k = s.inst.k + 1 ∧
      t.inst.headers = s.inst.headers ++ [.error .sourceFault] ∧ t.inst.inFlight = none)

/-- R64 (the spec's decision D18; log entry 14): `RDM @n.info` runs RDM with the info that line n returned, and stops the
program where it returned none. -/
def Obligations.StepResolvesInfoOfAnEarlierLine : Prop :=
  ∀ (s : State) (n snk src : Nat),
    s.events = [] → s.inst.inFlight = none → s.inst.program[s.inst.k]? = some ⟨.rdmAt n, snk, src⟩ →
    (∀ p, s.inst.results[n]? = some (.ok (.phase1 p)) → overlaps (.rdm p.info) ⟨.rdmAt n, snk, src⟩ s = false →
      step s = exec (.rdm p.info) { s with boundSink := snk, boundSource := src }) ∧
    ((∀ p, s.inst.results[n]? ≠ some (.ok (.phase1 p))) → step s = .refused (.unresolvedInfo n))

/-- R45 (the spec's decision D14; log entry 9): a command on a Sink or a Source that a command in progress of another instance is
bound to is refused, run or issued. That a command of an instance that has one in progress is refused (`instanceBusy`) is the
model's choice (log entry 20); R123 gives the Caller a duty and no refusal. -/
def Obligations.StepRefusesOverlapOnAStream : Prop :=
  ∀ (s : State), (s.events = [] ∨ s.events.head? = some .run ∨ s.events.head? = some .issue) →
    (∀ (l : Line) (i : Instr) (c : Codec) (f : InFlight),
      s.inst.inFlight = none → s.inst.program[s.inst.k]? = some l → resolve l.op s.inst = .ok i →
      c ∈ s.others → c.inFlight = some f →
      (usesSink f.instr = true ∧ usesSink i = true ∧ f.line.sink = l.sink ∨
        usesSource f.instr = true ∧ usesSource i = true ∧ f.line.source = l.source) →
      step s = .refused .streamOverlap) ∧
    (∀ f : InFlight, s.inst.inFlight = some f → step s = .refused .instanceBusy)

/-- The end of a run (R131): no line is left. The fault's name is the model's choice (log entry 12). -/
def Obligations.StepEndsAfterTheLastLine : Prop :=
  ∀ s : State, s.events = [] → s.inst.inFlight = none → s.inst.program.length ≤ s.inst.k →
    step s = .fault .endOfProgram

/-- No command looks at the outcome of an earlier one, or at what else stands on the result port (R16, R114). -/
def Obligations.CommandsIgnoreTheResultPort : Prop :=
  ∀ (i : Instr) (s : State) (r : Option Result) (f : Option InFlight),
    exec i { s with inst := { s.inst with result := r, inFlight := f } } = exec i s

/-- Issuing a command and letting it return is running it, but for an HDR's first line (R44, R123; log entry 10). -/
def Obligations.IssueThenFinishIsRun : Prop :=
  ∀ (s t : State) (l : Line) (es : List Event),
    s.inst.program[s.inst.k]? = some l → l.op ≠ .hdr → s.events = .run :: es → step s = .next t →
    ∃ u, step { s with events := .issue :: .finish :: es } = .next u ∧ step u = .next t

/-- R65: an HDR run in one step is its RDH and its `RDM @prev.info` run one after the other (log entry 2). -/
def Obligations.HdrIsItsTwoLines : Prop :=
  ∀ (s : State) (snk src : Nat) (es : List Event),
    s.Inv → s.inst.program[s.inst.k]? = some ⟨.hdr, snk, src⟩ →
    s.inst.program[s.inst.k + 1]? = some ⟨.hdrRest, snk, src⟩ →
    s.inst.inFlight = none → overlaps .rdh ⟨.hdr, snk, src⟩ s = false →
    SourceOpen 1 { s with boundSink := snk, boundSource := src } →
    State.sourceBytes { s with boundSink := snk, boundSource := src } ≠ [] →
    ∃ u v, step { s with events := .issue :: .finish :: .run :: es } = .next u ∧ step u = .next v ∧
      step { s with events := .run :: es } = step v

/-- R120 (the spec's decision D15; log entry 11): reset makes the result port unspecified. With no command in progress nothing
else changes. One in progress does not complete and returns no result; its Sink holds a prefix of its bytes more, its Source
has lost at most its bytes, and if it reads, no RDM is due there (log entry 21). -/
def Obligations.ResetAbandonsACommandInProgress : Prop :=
  ∀ (s : State) (es : List Event), s.events = .reset :: es →
    (s.inst.inFlight = none → step s = .next { s with inst := { s.inst with result := none }, events := es }) ∧
    ∀ f : InFlight, s.inst.inFlight = some f →
      ∃ t, step s = .next t ∧
        t.inst = { s.inst with result := none, inFlight := none } ∧ t.others = s.others ∧
        (∀ e : DueRdm, e ∈ t.due ↔ e ∈ s.due ∧ (readLength f.instr = 0 ∨ e.source ≠ f.line.source)) ∧
        (∀ j, j ≠ f.line.sink → t.sinks[j]? = s.sinks[j]?) ∧
        (∀ j, j ≠ f.line.source → t.sources[j]? = s.sources[j]?) ∧
        (∀ k, s.sinks[f.line.sink]? = some k →
          ∃ k' j, t.sinks[f.line.sink]? = some k' ∧ k'.bytes = k.bytes ++ (writeBytes f.instr).take j) ∧
        (∀ q, s.sources[f.line.source]? = some q →
          ∃ q' j, t.sources[f.line.source]? = some q' ∧ j ≤ min (readLength f.instr) q.bytes.length ∧
            q'.bytes = q.bytes.drop j)

/-- R118, R49 (the spec's decisions D29, D21; log entry 8): a step leaves the other instances, and the acting one's program
and number, as they are, but where the Callers turn to another instance; then the instances are the same ones. -/
def Obligations.StepKeepsTheOtherInstances : Prop :=
  ∀ s t : State, step s = .next t →
    ((∀ n, s.events.head? ≠ some (.switchTo n)) → t.others = s.others ∧ t.inst.program = s.inst.program ∧
      t.inst.id = s.inst.id) ∧
    (∀ n, s.events.head? = some (.switchTo n) → (t.inst :: t.others).Perm (s.inst :: s.others))

/-- Any step only appends to Sinks and only takes from the front of Sources, and makes no stream appear or vanish (R33). -/
def Obligations.StepAppendsToSinksAndConsumesSources : Prop :=
  ∀ s t : State, step s = .next t →
    t.sinks.length = s.sinks.length ∧ t.sources.length = s.sources.length ∧
    (∀ (j : Nat) (k : Sink), s.sinks[j]? = some k → ∃ k', t.sinks[j]? = some k' ∧ k.bytes <+: k'.bytes) ∧
    (∀ (j : Nat) (q : Source), s.sources[j]? = some q → ∃ q', t.sources[j]? = some q' ∧ q'.bytes <:+ q.bytes)

/-- Every step keeps the invariant of the machine. -/
def Obligations.StepKeepsInv : Prop :=
  ∀ s t : State, s.Inv → step s = .next t → t.Inv

/-- Every step keeps commands in progress apart on their streams (R45). -/
def Obligations.StepKeepsStreamsExclusive : Prop :=
  ∀ s t : State, s.exclusive → step s = .next t → t.exclusive

/-- Reset meets the invariants, and leaves the values R32 gives (the spec's decision D15). -/
def Obligations.ResetMeetsInvariants : Prop :=
  State.reset.Inv ∧ State.reset.exclusive ∧ State.reset.inst.result = none ∧
    State.reset.inst.inFlight = none ∧ State.reset.inst.k = 0

/-- R124. An `RDM @k.info` right after an RDH of line k on the same Source meets the Caller's obligation. Whichever instance's
line comes next after a read of a header byte, an RDM on that Source meets it exactly if it is of the instance that read the byte,
has the byte's info, and names no other RDH line than the one that read it: an RDM for an earlier header byte does not, though the
two bytes have one info. After an RDM, after a read that failed, and after a read abandoned by reset, no RDM on that Source meets
it. The block checks nothing of this: whatever is due, a command has the same outcome. What is due is the model's record (log
entry 21). -/
def Obligations.RdmAfterRdhIsTwoPhase : Prop :=
  (∀ (s t : State) (mag : Int) (snk snk' src : Nat),
    s.Inv → s.events = [] → s.inst.program[s.inst.k]? = some ⟨.word 0xC000 mag, snk, src⟩ →
    s.inst.program[s.inst.k + 1]? = some ⟨.rdmAt s.inst.k, snk', src⟩ → step s = .next t →
    t.twoPhaseOk = true) ∧
  (∀ (s t u : State) (p : Phase1) (item : Option Nat) (info : AdditionalInfo),
    exec .rdh s = .next t → t.inst.result = some (.ok (.phase1 p)) →
    u.due = t.due → NextRdm u s.boundSource item info →
    (u.twoPhaseOk = true ↔ u.inst.id = s.inst.id ∧ info = p.info ∧ ∀ n, item = some n → n = s.inst.k)) ∧
  (∀ (i : Instr) (s t u : State) (item : Option Nat) (info : AdditionalInfo),
    exec i s = .next t → ((readInfo i).isSome = true ∨ i = .rdh ∧ t.inst.result = some (.err .sourceFault)) →
    u.due = t.due → NextRdm u s.boundSource item info → u.twoPhaseOk = false) ∧
  (∀ (s t u : State) (f : InFlight) (item : Option Nat) (info : AdditionalInfo),
    s.events.head? = some .reset → s.inst.inFlight = some f → readLength f.instr ≠ 0 → step s = .next t →
    u.due = t.due → NextRdm u f.line.source item info → u.twoPhaseOk = false) ∧
  (∀ (i : Instr) (s : State) (d : List DueRdm),
    (∀ t, exec i s = .next t → ∃ d', exec i { s with due := d } = .next { t with due := d' }) ∧
    (∀ r, exec i s = .refused r → exec i { s with due := d } = .refused r))
end

