-- ==== Sys2Proof/Laws/State.lean ====
section
/-! SUPPORT. What each update of State does to each field, by rfl; later proofs rewrite with these and unfold no update. -/

namespace Sys2Proof.Machine

/-! ### Returning a result -/

@[simp] theorem complete_others (r : Result) (s : State) : (complete r s).others = s.others := rfl
@[simp] theorem complete_sinks (r : Result) (s : State) : (complete r s).sinks = s.sinks := rfl
@[simp] theorem complete_sources (r : Result) (s : State) : (complete r s).sources = s.sources := rfl
@[simp] theorem complete_boundSink (r : Result) (s : State) : (complete r s).boundSink = s.boundSink := rfl
@[simp] theorem complete_boundSource (r : Result) (s : State) : (complete r s).boundSource = s.boundSource := rfl
@[simp] theorem complete_draws (r : Result) (s : State) : (complete r s).draws = s.draws := rfl
@[simp] theorem complete_events (r : Result) (s : State) : (complete r s).events = s.events := rfl
@[simp] theorem complete_due (r : Result) (s : State) : (complete r s).due = s.due := rfl
@[simp] theorem complete_inst_id (r : Result) (s : State) : (complete r s).inst.id = s.inst.id := rfl
@[simp] theorem complete_inst_program (r : Result) (s : State) : (complete r s).inst.program = s.inst.program := rfl
@[simp] theorem complete_inst_k (r : Result) (s : State) : (complete r s).inst.k = s.inst.k + 1 := rfl
@[simp] theorem complete_inst_results (r : Result) (s : State) : (complete r s).inst.results = s.inst.results ++ [r] := rfl
@[simp] theorem complete_inst_headers (r : Result) (s : State) : (complete r s).inst.headers = s.inst.headers := rfl
@[simp] theorem complete_inst_result (r : Result) (s : State) : (complete r s).inst.result = some r := rfl
@[simp] theorem complete_inst_inFlight (r : Result) (s : State) : (complete r s).inst.inFlight = none := rfl

/-! ### Raising an error -/

@[simp] theorem raise_others (e : ErrorKind) (s : State) : (raise e s).others = s.others := rfl
@[simp] theorem raise_sinks (e : ErrorKind) (s : State) : (raise e s).sinks = s.sinks := rfl
@[simp] theorem raise_sources (e : ErrorKind) (s : State) : (raise e s).sources = s.sources := rfl
@[simp] theorem raise_boundSink (e : ErrorKind) (s : State) : (raise e s).boundSink = s.boundSink := rfl
@[simp] theorem raise_boundSource (e : ErrorKind) (s : State) : (raise e s).boundSource = s.boundSource := rfl
@[simp] theorem raise_draws (e : ErrorKind) (s : State) : (raise e s).draws = s.draws := rfl
@[simp] theorem raise_events (e : ErrorKind) (s : State) : (raise e s).events = s.events := rfl
@[simp] theorem raise_due (e : ErrorKind) (s : State) : (raise e s).due = s.due := rfl
@[simp] theorem raise_inst_id (e : ErrorKind) (s : State) : (raise e s).inst.id = s.inst.id := rfl
@[simp] theorem raise_inst_program (e : ErrorKind) (s : State) : (raise e s).inst.program = s.inst.program := rfl
@[simp] theorem raise_inst_k (e : ErrorKind) (s : State) : (raise e s).inst.k = s.inst.k + 1 := rfl
@[simp] theorem raise_inst_results (e : ErrorKind) (s : State) : (raise e s).inst.results = s.inst.results ++ [.err e] := rfl
@[simp] theorem raise_inst_headers (e : ErrorKind) (s : State) : (raise e s).inst.headers = s.inst.headers := rfl
@[simp] theorem raise_inst_result (e : ErrorKind) (s : State) : (raise e s).inst.result = some (.err e) := rfl
@[simp] theorem raise_inst_inFlight (e : ErrorKind) (s : State) : (raise e s).inst.inFlight = none := rfl

/-! ### Yielding a Header -/

@[simp] theorem yieldHdr_others (y : HdrYield) (s : State) : (yieldHdr y s).others = s.others := rfl
@[simp] theorem yieldHdr_sinks (y : HdrYield) (s : State) : (yieldHdr y s).sinks = s.sinks := rfl
@[simp] theorem yieldHdr_sources (y : HdrYield) (s : State) : (yieldHdr y s).sources = s.sources := rfl
@[simp] theorem yieldHdr_boundSink (y : HdrYield) (s : State) : (yieldHdr y s).boundSink = s.boundSink := rfl
@[simp] theorem yieldHdr_boundSource (y : HdrYield) (s : State) : (yieldHdr y s).boundSource = s.boundSource := rfl
@[simp] theorem yieldHdr_draws (y : HdrYield) (s : State) : (yieldHdr y s).draws = s.draws := rfl
@[simp] theorem yieldHdr_events (y : HdrYield) (s : State) : (yieldHdr y s).events = s.events := rfl
@[simp] theorem yieldHdr_due (y : HdrYield) (s : State) : (yieldHdr y s).due = s.due := rfl
@[simp] theorem yieldHdr_inst_id (y : HdrYield) (s : State) : (yieldHdr y s).inst.id = s.inst.id := rfl
@[simp] theorem yieldHdr_inst_program (y : HdrYield) (s : State) : (yieldHdr y s).inst.program = s.inst.program := rfl
@[simp] theorem yieldHdr_inst_k (y : HdrYield) (s : State) : (yieldHdr y s).inst.k = s.inst.k := rfl
@[simp] theorem yieldHdr_inst_results (y : HdrYield) (s : State) : (yieldHdr y s).inst.results = s.inst.results := rfl
@[simp] theorem yieldHdr_inst_headers (y : HdrYield) (s : State) : (yieldHdr y s).inst.headers = s.inst.headers ++ [y] := rfl
@[simp] theorem yieldHdr_inst_result (y : HdrYield) (s : State) : (yieldHdr y s).inst.result = s.inst.result := rfl
@[simp] theorem yieldHdr_inst_inFlight (y : HdrYield) (s : State) : (yieldHdr y s).inst.inFlight = s.inst.inFlight := rfl

/-! ### Replacing the bound Sink -/

@[simp] theorem setSink_inst (k : Sink) (s : State) : (s.setSink k).inst = s.inst := rfl
@[simp] theorem setSink_others (k : Sink) (s : State) : (s.setSink k).others = s.others := rfl
@[simp] theorem setSink_sinks (k : Sink) (s : State) : (s.setSink k).sinks = s.sinks.set s.boundSink k := rfl
@[simp] theorem setSink_sources (k : Sink) (s : State) : (s.setSink k).sources = s.sources := rfl
@[simp] theorem setSink_boundSink (k : Sink) (s : State) : (s.setSink k).boundSink = s.boundSink := rfl
@[simp] theorem setSink_boundSource (k : Sink) (s : State) : (s.setSink k).boundSource = s.boundSource := rfl
@[simp] theorem setSink_draws (k : Sink) (s : State) : (s.setSink k).draws = s.draws := rfl
@[simp] theorem setSink_events (k : Sink) (s : State) : (s.setSink k).events = s.events := rfl
@[simp] theorem setSink_due (k : Sink) (s : State) : (s.setSink k).due = s.due := rfl

/-! ### Replacing the bound Source -/

@[simp] theorem setSource_inst (q : Source) (s : State) : (s.setSource q).inst = s.inst := rfl
@[simp] theorem setSource_others (q : Source) (s : State) : (s.setSource q).others = s.others := rfl
@[simp] theorem setSource_sinks (q : Source) (s : State) : (s.setSource q).sinks = s.sinks := rfl
@[simp] theorem setSource_sources (q : Source) (s : State) : (s.setSource q).sources = s.sources.set s.boundSource q := rfl
@[simp] theorem setSource_boundSink (q : Source) (s : State) : (s.setSource q).boundSink = s.boundSink := rfl
@[simp] theorem setSource_boundSource (q : Source) (s : State) : (s.setSource q).boundSource = s.boundSource := rfl
@[simp] theorem setSource_draws (q : Source) (s : State) : (s.setSource q).draws = s.draws := rfl
@[simp] theorem setSource_events (q : Source) (s : State) : (s.setSource q).events = s.events := rfl
@[simp] theorem setSource_due (q : Source) (s : State) : (s.setSource q).due = s.due := rfl

/-! ### Drawing -/

@[simp] theorem nextDraw_inst  (s : State) : (s.nextDraw).inst = s.inst := rfl
@[simp] theorem nextDraw_others  (s : State) : (s.nextDraw).others = s.others := rfl
@[simp] theorem nextDraw_sinks  (s : State) : (s.nextDraw).sinks = s.sinks := rfl
@[simp] theorem nextDraw_sources  (s : State) : (s.nextDraw).sources = s.sources := rfl
@[simp] theorem nextDraw_boundSink  (s : State) : (s.nextDraw).boundSink = s.boundSink := rfl
@[simp] theorem nextDraw_boundSource  (s : State) : (s.nextDraw).boundSource = s.boundSource := rfl
@[simp] theorem nextDraw_draws  (s : State) : (s.nextDraw).draws = s.draws + 1 := rfl
@[simp] theorem nextDraw_events  (s : State) : (s.nextDraw).events = s.events := rfl
@[simp] theorem nextDraw_due  (s : State) : (s.nextDraw).due = s.due := rfl

/-! ### Binding a line's streams -/

@[simp] theorem bindLine_inst (l : Line) (s : State) : (bindLine l s).inst = s.inst := rfl
@[simp] theorem bindLine_others (l : Line) (s : State) : (bindLine l s).others = s.others := rfl
@[simp] theorem bindLine_sinks (l : Line) (s : State) : (bindLine l s).sinks = s.sinks := rfl
@[simp] theorem bindLine_sources (l : Line) (s : State) : (bindLine l s).sources = s.sources := rfl
@[simp] theorem bindLine_boundSink (l : Line) (s : State) : (bindLine l s).boundSink = l.sink := rfl
@[simp] theorem bindLine_boundSource (l : Line) (s : State) : (bindLine l s).boundSource = l.source := rfl
@[simp] theorem bindLine_draws (l : Line) (s : State) : (bindLine l s).draws = s.draws := rfl
@[simp] theorem bindLine_events (l : Line) (s : State) : (bindLine l s).events = s.events := rfl
@[simp] theorem bindLine_due (l : Line) (s : State) : (bindLine l s).due = s.due := rfl

/-! ### A drawn prefix written -/

@[simp] theorem partialWrite_inst (k : Sink) (bs : List Byte) (s : State) : (partialWrite k bs s).inst = s.inst := rfl
@[simp] theorem partialWrite_others (k : Sink) (bs : List Byte) (s : State) : (partialWrite k bs s).others = s.others := rfl
@[simp] theorem partialWrite_sinks (k : Sink) (bs : List Byte) (s : State) : (partialWrite k bs s).sinks = s.sinks.set s.boundSink { k with bytes := k.bytes ++ bs.take (s.draw bs.length) } := rfl
@[simp] theorem partialWrite_sources (k : Sink) (bs : List Byte) (s : State) : (partialWrite k bs s).sources = s.sources := rfl
@[simp] theorem partialWrite_boundSink (k : Sink) (bs : List Byte) (s : State) : (partialWrite k bs s).boundSink = s.boundSink := rfl
@[simp] theorem partialWrite_boundSource (k : Sink) (bs : List Byte) (s : State) : (partialWrite k bs s).boundSource = s.boundSource := rfl
@[simp] theorem partialWrite_draws (k : Sink) (bs : List Byte) (s : State) : (partialWrite k bs s).draws = s.draws + 1 := rfl
@[simp] theorem partialWrite_events (k : Sink) (bs : List Byte) (s : State) : (partialWrite k bs s).events = s.events := rfl
@[simp] theorem partialWrite_due (k : Sink) (bs : List Byte) (s : State) : (partialWrite k bs s).due = s.due := rfl

/-! ### A drawn number of bytes read -/

@[simp] theorem partialRead_inst (q : Source) (n : Nat) (s : State) : (partialRead q n s).inst = s.inst := rfl
@[simp] theorem partialRead_others (q : Source) (n : Nat) (s : State) : (partialRead q n s).others = s.others := rfl
@[simp] theorem partialRead_sinks (q : Source) (n : Nat) (s : State) : (partialRead q n s).sinks = s.sinks := rfl
@[simp] theorem partialRead_sources (q : Source) (n : Nat) (s : State) : (partialRead q n s).sources = s.sources.set s.boundSource { q with bytes := q.bytes.drop (s.draw (min n q.bytes.length)) } := rfl
@[simp] theorem partialRead_boundSink (q : Source) (n : Nat) (s : State) : (partialRead q n s).boundSink = s.boundSink := rfl
@[simp] theorem partialRead_boundSource (q : Source) (n : Nat) (s : State) : (partialRead q n s).boundSource = s.boundSource := rfl
@[simp] theorem partialRead_draws (q : Source) (n : Nat) (s : State) : (partialRead q n s).draws = s.draws + 1 := rfl
@[simp] theorem partialRead_events (q : Source) (n : Nat) (s : State) : (partialRead q n s).events = s.events := rfl
@[simp] theorem partialRead_due (q : Source) (n : Nat) (s : State) : (partialRead q n s).due = s.due := rfl

/-! ### The headers whose RDM is due -/

@[simp] theorem settle_inst (s : State) : (settle s).inst = s.inst := rfl
@[simp] theorem settle_others (s : State) : (settle s).others = s.others := rfl
@[simp] theorem settle_sinks (s : State) : (settle s).sinks = s.sinks := rfl
@[simp] theorem settle_sources (s : State) : (settle s).sources = s.sources := rfl
@[simp] theorem settle_boundSink (s : State) : (settle s).boundSink = s.boundSink := rfl
@[simp] theorem settle_boundSource (s : State) : (settle s).boundSource = s.boundSource := rfl
@[simp] theorem settle_draws (s : State) : (settle s).draws = s.draws := rfl
@[simp] theorem settle_events (s : State) : (settle s).events = s.events := rfl
@[simp] theorem settle_sink? (s : State) : (settle s).sink? = s.sink? := rfl
@[simp] theorem settle_source? (s : State) : (settle s).source? = s.source? := rfl
@[simp] theorem awaitRdm_inst (info : AdditionalInfo) (s : State) : (awaitRdm info s).inst = s.inst := rfl
@[simp] theorem awaitRdm_others (info : AdditionalInfo) (s : State) : (awaitRdm info s).others = s.others := rfl
@[simp] theorem awaitRdm_sinks (info : AdditionalInfo) (s : State) : (awaitRdm info s).sinks = s.sinks := rfl
@[simp] theorem awaitRdm_sources (info : AdditionalInfo) (s : State) : (awaitRdm info s).sources = s.sources := rfl
@[simp] theorem awaitRdm_boundSink (info : AdditionalInfo) (s : State) : (awaitRdm info s).boundSink = s.boundSink := rfl
@[simp] theorem awaitRdm_boundSource (info : AdditionalInfo) (s : State) : (awaitRdm info s).boundSource = s.boundSource := rfl
@[simp] theorem awaitRdm_draws (info : AdditionalInfo) (s : State) : (awaitRdm info s).draws = s.draws := rfl
@[simp] theorem awaitRdm_events (info : AdditionalInfo) (s : State) : (awaitRdm info s).events = s.events := rfl
@[simp] theorem awaitRdm_sink? (info : AdditionalInfo) (s : State) : (awaitRdm info s).sink? = s.sink? := rfl
@[simp] theorem awaitRdm_source? (info : AdditionalInfo) (s : State) : (awaitRdm info s).source? = s.source? := rfl

/-! ### The bound streams after an update -/

@[simp] theorem complete_sink? (r : Result) (s : State) : (complete r s).sink? = s.sink? := rfl
@[simp] theorem complete_source? (r : Result) (s : State) : (complete r s).source? = s.source? := rfl
@[simp] theorem raise_sink? (e : ErrorKind) (s : State) : (raise e s).sink? = s.sink? := rfl
@[simp] theorem raise_source? (e : ErrorKind) (s : State) : (raise e s).source? = s.source? := rfl
@[simp] theorem yieldHdr_sink? (y : HdrYield) (s : State) : (yieldHdr y s).sink? = s.sink? := rfl
@[simp] theorem yieldHdr_source? (y : HdrYield) (s : State) : (yieldHdr y s).source? = s.source? := rfl
@[simp] theorem nextDraw_sink? (s : State) : s.nextDraw.sink? = s.sink? := rfl
@[simp] theorem nextDraw_source? (s : State) : s.nextDraw.source? = s.source? := rfl
@[simp] theorem setSink_source? (k : Sink) (s : State) : (s.setSink k).source? = s.source? := rfl
@[simp] theorem setSource_sink? (q : Source) (s : State) : (s.setSource q).sink? = s.sink? := rfl

/-- A bound Sink that is replaced is the new one. -/
theorem setSink_sink? {s : State} {k₀ : Sink} (k : Sink) (h : s.sink? = some k₀) : (s.setSink k).sink? = some k := by
  have hb : s.boundSink < s.sinks.length := by
    simp only [State.sink?] at h
    exact (List.getElem?_eq_some_iff.mp h).1
  simp [State.sink?, hb]

/-- A bound Source that is replaced is the new one. -/
theorem setSource_source? {s : State} {q₀ : Source} (q : Source) (h : s.source? = some q₀) :
    (s.setSource q).source? = some q := by
  have hb : s.boundSource < s.sources.length := by
    simp only [State.source?] at h
    exact (List.getElem?_eq_some_iff.mp h).1
  simp [State.source?, hb]

end Sys2Proof.Machine
end

