-- ==== Sys2Proof/Laws/Ops.lean ====
section
/-! SUPPORT. What each shared operation can do, said once; the provers cite these and unfold no operation. -/

namespace Sys2Proof.Machine

/-! ### Draws -/

/-- A draw keeps its bound (R36, R80). -/
theorem draw_le (s : State) (b : Nat) : s.draw b ≤ b := by
  cases b with
  | zero => exact Nat.le_refl 0
  | succ b => exact Nat.le_of_lt_succ (Nat.mod_lt _ (Nat.succ_pos _))

/-- What a Sink holds does not bear on a draw. -/
@[simp] theorem draw_setSink (s : State) (k : Sink) (b : Nat) : (s.setSink k).draw b = s.draw b := by cases b <;> rfl

/-- What a Source holds does not bear on a draw. -/
@[simp] theorem draw_setSource (s : State) (q : Source) (b : Nat) : (s.setSource q).draw b = s.draw b := by cases b <;> rfl

/-! ### The stream primitives -/

/-- A Sink that accepts takes the bytes. -/
theorem memWrite_accept {s : State} {k : Sink} (n v : Nat) (h : s.sink? = some k) (ha : k.answers.head? ≠ some .fault) :
    memWrite n v s = .done () (s.setSink ⟨k.bytes ++ beBytes n v, k.answers.tail⟩) := by
  obtain ⟨bytes, answers⟩ := k
  unfold memWrite
  rw [h]
  rcases answers with _ | ⟨_ | _, rest⟩ <;> simp_all

/-- A Sink that faults has answered, and nothing else has happened yet. -/
theorem memWrite_fault {s : State} {k : Sink} (n v : Nat) (h : s.sink? = some k) (ha : k.answers.head? = some .fault) :
    memWrite n v s = .failed (s.setSink ⟨k.bytes, k.answers.tail⟩) := by
  obtain ⟨bytes, answers⟩ := k
  unfold memWrite
  rw [h]
  rcases answers with _ | ⟨_ | _, rest⟩ <;> simp_all

/-- A write with no Sink bound. -/
theorem memWrite_unbound {s : State} (n v : Nat) (h : s.sink? = none) : memWrite n v s = .unbound := by
  simp [memWrite, h]

/-- A read of a Source that is open and holds enough gives the value of its first bytes. -/
theorem memRead_yield {s : State} {q : Source} {n : Nat} (h : s.source? = some q) (ha : q.answers.head? ≠ some .fault)
    (hn : n ≤ q.bytes.length) :
    memRead n s = .done (beVal (q.bytes.take n)) (s.setSource ⟨q.bytes.drop n, q.answers.tail⟩) := by
  obtain ⟨bytes, answers⟩ := q
  have hn' : ¬ bytes.length < n := Nat.not_lt.mpr hn
  unfold memRead
  rw [h]
  rcases answers with _ | ⟨_ | _, rest⟩ <;> simp_all

/-- A read of a Source that is closed or short fails, after some of its bytes (R36). -/
theorem memRead_fail {s : State} {q : Source} {n : Nat} (h : s.source? = some q)
    (ha : q.answers.head? = some .fault ∨ q.bytes.length < n) :
    memRead n s = .failed (partialRead ⟨q.bytes, q.answers.tail⟩ n s) := by
  obtain ⟨bytes, answers⟩ := q
  unfold memRead
  rw [h]
  rcases answers with _ | ⟨_ | _, rest⟩ <;> simp_all

/-- A read with no Source bound. -/
theorem memRead_unbound {s : State} (n : Nat) (h : s.source? = none) : memRead n s = .unbound := by
  simp [memRead, h]

/-! ### Going on after an access -/

/-- Everything `writeThen` can do. -/
theorem writeThen_cases (n v : Nat) (s : State) (fault next : State → Outcome) :
    (s.sink? = none ∧ writeThen n v s fault next = .refused .unboundSink) ∨
    ∃ k, s.sink? = some k ∧
      ((k.answers.head? ≠ some .fault ∧
          writeThen n v s fault next = next (s.setSink ⟨k.bytes ++ beBytes n v, k.answers.tail⟩)) ∨
        (k.answers.head? = some .fault ∧
          writeThen n v s fault next = fault (s.setSink ⟨k.bytes, k.answers.tail⟩))) := by
  rcases h : s.sink? with _ | k
  · exact .inl ⟨rfl, by simp [writeThen, memWrite_unbound n v h]⟩
  · refine .inr ⟨k, rfl, ?_⟩
    by_cases ha : k.answers.head? = some .fault
    · exact .inr ⟨ha, by simp [writeThen, memWrite_fault n v h ha]⟩
    · exact .inl ⟨ha, by simp [writeThen, memWrite_accept n v h ha]⟩

/-- What a fault of the Sink does, where a Sink was bound and still is (R80). -/
theorem sinkFault_eq {s t : State} {k l : Sink} (bs : List Byte) (hs : s.sink? = some k) (ht : t.sink? = some l) :
    sinkFault s bs t = raise .sinkFault (partialWrite ⟨k.bytes, l.answers⟩ bs t) := by
  simp [sinkFault, hs, ht]

/-- Everything `readThen` can do. -/
theorem readThen_cases (n : Nat) (s : State) (fault : State → Outcome) (next : Nat → State → Outcome) :
    (s.source? = none ∧ readThen n s fault next = .refused .unboundSource) ∨
    ∃ q, s.source? = some q ∧
      ((q.answers.head? ≠ some .fault ∧ n ≤ q.bytes.length ∧
          readThen n s fault next =
            next (beVal (q.bytes.take n)) (s.setSource ⟨q.bytes.drop n, q.answers.tail⟩)) ∨
        ((q.answers.head? = some .fault ∨ q.bytes.length < n) ∧
          readThen n s fault next = fault (partialRead ⟨q.bytes, q.answers.tail⟩ n s))) := by
  rcases h : s.source? with _ | q
  · exact .inl ⟨rfl, by simp [readThen, memRead_unbound n h]⟩
  · refine .inr ⟨q, rfl, ?_⟩
    by_cases ha : q.answers.head? = some .fault ∨ q.bytes.length < n
    · exact .inr ⟨ha, by simp [readThen, memRead_fail h ha]⟩
    · rw [not_or, Nat.not_lt] at ha
      exact .inl ⟨ha.1, ha.2, by simp [readThen, memRead_yield h ha.1 ha.2]⟩

/-! ### The headers whose RDM is due -/

/-- After `settle` none is due on the bound Source, and the others are. -/
@[simp] theorem mem_settle {s : State} {e : DueRdm} : e ∈ (settle s).due ↔ e ∈ s.due ∧ e.source ≠ s.boundSource := by
  simp [settle]

/-- After `awaitRdm` the one given is due on the bound Source, no other one is, and on the other Sources all is as before. -/
@[simp] theorem mem_awaitRdm {s : State} {info : AdditionalInfo} {e : DueRdm} :
    e ∈ (awaitRdm info s).due ↔
      e = ⟨s.boundSource, s.inst.id, s.inst.k, info⟩ ∨ e ∈ s.due ∧ e.source ≠ s.boundSource := by
  simp only [awaitRdm, List.mem_append, List.mem_cons, List.mem_filter, decide_eq_true_eq]
  constructor
  · rintro (⟨h, hl⟩ | h | ⟨h, hl⟩)
    · exact .inr ⟨h, Nat.ne_of_lt hl⟩
    · exact .inl h
    · exact .inr ⟨h, Nat.ne_of_gt hl⟩
  · rintro (h | ⟨h, hl⟩)
    · exact .inr (.inl h)
    · rcases Nat.lt_or_gt_of_ne hl with hl | hl
      · exact .inl ⟨h, hl⟩
      · exact .inr (.inr ⟨h, hl⟩)

/-- What is due on another Source stays due. -/
theorem mem_awaitRdm_other {s : State} {info : AdditionalInfo} {e : DueRdm} (h : e.source ≠ s.boundSource) :
    e ∈ (awaitRdm info s).due ↔ e ∈ s.due := by
  rw [mem_awaitRdm]
  exact ⟨fun he => he.elim (fun he => absurd (congrArg DueRdm.source he) h) And.left, fun he => .inr ⟨he, h⟩⟩

/-- `settle` keeps the places rising. -/
theorem settle_due_sorted {s : State} (h : s.due.Pairwise fun a b => a.source < b.source) :
    (settle s).due.Pairwise fun a b => a.source < b.source := h.filter _

/-- `awaitRdm` keeps the places rising. -/
theorem awaitRdm_due_sorted {s : State} {info : AdditionalInfo} (h : s.due.Pairwise fun a b => a.source < b.source) :
    (awaitRdm info s).due.Pairwise fun a b => a.source < b.source := by
  refine List.pairwise_append.mpr ⟨h.filter _, List.pairwise_cons.mpr ⟨?_, h.filter _⟩, ?_⟩
  · intro e he
    simpa using (List.mem_filter.mp he).2
  · intro a ha b hb
    have ha' : a.source < s.boundSource := by simpa using (List.mem_filter.mp ha).2
    rcases List.mem_cons.mp hb with rfl | hb
    · exact ha'
    · exact Nat.lt_trans ha' (by simpa using (List.mem_filter.mp hb).2)

/-! ### The ends of RDM and RDH -/

@[simp] theorem endRdm_others (p : Phase2) (s : State) : (endRdm p s).others = s.others := rfl
@[simp] theorem endRdm_sinks (p : Phase2) (s : State) : (endRdm p s).sinks = s.sinks := rfl
@[simp] theorem endRdm_sources (p : Phase2) (s : State) : (endRdm p s).sources = s.sources := rfl
@[simp] theorem endRdm_boundSink (p : Phase2) (s : State) : (endRdm p s).boundSink = s.boundSink := rfl
@[simp] theorem endRdm_boundSource (p : Phase2) (s : State) : (endRdm p s).boundSource = s.boundSource := rfl
@[simp] theorem endRdm_draws (p : Phase2) (s : State) : (endRdm p s).draws = s.draws := rfl
@[simp] theorem endRdm_events (p : Phase2) (s : State) : (endRdm p s).events = s.events := rfl
@[simp] theorem endRdm_sink? (p : Phase2) (s : State) : (endRdm p s).sink? = s.sink? := rfl
@[simp] theorem endRdm_source? (p : Phase2) (s : State) : (endRdm p s).source? = s.source? := rfl
@[simp] theorem endRdm_inst_id (p : Phase2) (s : State) : (endRdm p s).inst.id = s.inst.id := rfl
@[simp] theorem endRdm_inst_program (p : Phase2) (s : State) : (endRdm p s).inst.program = s.inst.program := rfl
@[simp] theorem endRdm_inst_headers (p : Phase2) (s : State) : (endRdm p s).inst.headers = s.inst.headers := rfl
@[simp] theorem endRdm_inst_k (p : Phase2) (s : State) : (endRdm p s).inst.k = s.inst.k + 1 := rfl
@[simp] theorem endRdm_inst_results (p : Phase2) (s : State) :
    (endRdm p s).inst.results = s.inst.results ++ [p.result] := rfl
@[simp] theorem endRdm_inst_result (p : Phase2) (s : State) : (endRdm p s).inst.result = some (p.result) := rfl
@[simp] theorem endRdm_inst_inFlight (p : Phase2) (s : State) : (endRdm p s).inst.inFlight = none := rfl
@[simp] theorem endRdm_due (p : Phase2) (s : State) : (endRdm p s).due = (settle s).due := rfl
@[simp] theorem endRdh_others (hb : Byte) (s : State) : (endRdh hb s).others = s.others := rfl
@[simp] theorem endRdh_sinks (hb : Byte) (s : State) : (endRdh hb s).sinks = s.sinks := rfl
@[simp] theorem endRdh_sources (hb : Byte) (s : State) : (endRdh hb s).sources = s.sources := rfl
@[simp] theorem endRdh_boundSink (hb : Byte) (s : State) : (endRdh hb s).boundSink = s.boundSink := rfl
@[simp] theorem endRdh_boundSource (hb : Byte) (s : State) : (endRdh hb s).boundSource = s.boundSource := rfl
@[simp] theorem endRdh_draws (hb : Byte) (s : State) : (endRdh hb s).draws = s.draws := rfl
@[simp] theorem endRdh_events (hb : Byte) (s : State) : (endRdh hb s).events = s.events := rfl
@[simp] theorem endRdh_sink? (hb : Byte) (s : State) : (endRdh hb s).sink? = s.sink? := rfl
@[simp] theorem endRdh_source? (hb : Byte) (s : State) : (endRdh hb s).source? = s.source? := rfl
@[simp] theorem endRdh_inst_id (hb : Byte) (s : State) : (endRdh hb s).inst.id = s.inst.id := rfl
@[simp] theorem endRdh_inst_program (hb : Byte) (s : State) : (endRdh hb s).inst.program = s.inst.program := rfl
@[simp] theorem endRdh_inst_headers (hb : Byte) (s : State) : (endRdh hb s).inst.headers = s.inst.headers := rfl
@[simp] theorem endRdh_inst_k (hb : Byte) (s : State) : (endRdh hb s).inst.k = s.inst.k + 1 := rfl
@[simp] theorem endRdh_inst_results (hb : Byte) (s : State) :
    (endRdh hb s).inst.results = s.inst.results ++ [.ok (.phase1 (splitHeader hb))] := rfl
@[simp] theorem endRdh_inst_result (hb : Byte) (s : State) : (endRdh hb s).inst.result = some (.ok (.phase1 (splitHeader hb))) := rfl
@[simp] theorem endRdh_inst_inFlight (hb : Byte) (s : State) : (endRdh hb s).inst.inFlight = none := rfl
@[simp] theorem endRdh_due (hb : Byte) (s : State) : (endRdh hb s).due = (awaitRdm (splitHeader hb).info s).due := rfl

/-! ### Phase 2 -/

/-- What Phase 2 ends in for an info value with no trailing field (R87, R92, R93). -/
def immediate (info : AdditionalInfo) : Phase2 :=
  if info.toNat < 24 then .got (.mag (info.setWidth 64))
  else if info = 31 then .got .indefinite
  else .failed (.reservedAdditionalInfo info)

/-- Phase 2 reads no byte and ends at once, or reads its trailing field (R38). -/
theorem readMagnitude_eq (info : AdditionalInfo) (s : State) (fin : Phase2 → State → Outcome) :
    readMagnitude info s fin =
      if trailingBytes info = 0 then fin (immediate info) s else readField (trailingBytes info) s fin := by
  by_cases h0 : info.toNat < 24
  · have h24 : info ≠ 24 := by rintro rfl; exact absurd h0 (by decide)
    have h25 : info ≠ 25 := by rintro rfl; exact absurd h0 (by decide)
    have h26 : info ≠ 26 := by rintro rfl; exact absurd h0 (by decide)
    have h27 : info ≠ 27 := by rintro rfl; exact absurd h0 (by decide)
    simp only [readMagnitude, trailingBytes, immediate, if_pos h0, if_neg h24, if_neg h25, if_neg h26, if_neg h27, if_pos]
  · by_cases h24 : info = 24
    · subst h24; rfl
    by_cases h25 : info = 25
    · subst h25; rfl
    by_cases h26 : info = 26
    · subst h26; rfl
    by_cases h27 : info = 27
    · subst h27; rfl
    by_cases h31 : info = 31
    · subst h31; rfl
    simp only [readMagnitude, trailingBytes, immediate, if_neg h0, if_neg h24, if_neg h25, if_neg h26, if_neg h27,
      if_neg h31, if_pos]

/-- Everything Phase 2 can do: `fin` returns what it ends in. -/
theorem readMagnitude_cases (info : AdditionalInfo) (s : State) (fin : Phase2 → State → Outcome) :
    (trailingBytes info = 0 ∧ readMagnitude info s fin = fin (immediate info) s) ∨
    (trailingBytes info ≠ 0 ∧ s.source? = none ∧ readMagnitude info s fin = .refused .unboundSource) ∨
    (trailingBytes info ≠ 0 ∧ ∃ q, s.source? = some q ∧
      ((q.answers.head? ≠ some .fault ∧ trailingBytes info ≤ q.bytes.length ∧
          readMagnitude info s fin =
            fin (.got (.mag (BitVec.ofNat 64 (beVal (q.bytes.take (trailingBytes info))))))
              (s.setSource ⟨q.bytes.drop (trailingBytes info), q.answers.tail⟩)) ∨
        ((q.answers.head? = some .fault ∨ q.bytes.length < trailingBytes info) ∧
          readMagnitude info s fin =
            fin (.failed .sourceFault) (partialRead ⟨q.bytes, q.answers.tail⟩ (trailingBytes info) s)))) := by
  rw [readMagnitude_eq]
  by_cases h : trailingBytes info = 0
  · exact .inl ⟨h, by simp [h]⟩
  · rw [if_neg h]
    rcases readThen_cases (trailingBytes info) s (fin (.failed .sourceFault))
        (fun v t => fin (.got (.mag (BitVec.ofNat 64 v))) t) with ⟨h1, h2⟩ | ⟨q, h1, h2⟩
    · exact .inr (.inl ⟨h, h1, h2⟩)
    · exact .inr (.inr ⟨h, q, h1, h2⟩)

end Sys2Proof.Machine
end

