-- ==== Sys2Proof/Laws/PerInstr.lean ====
section
/-! SUPPORT. Per instruction: the words it is encoded in belong to its row of spec/opcode_table.json. -/

namespace Sys2Proof.Laws.TableRow

/-- The words of a well-formed instruction carry its row's match under its row's mask. -/
def Statement (i : Instr) : Prop := i.wellFormed = true → i.tableRow.holds (encode i)

/-- A header byte of a fixed info carries that info in its row's mask. -/
theorem headerRow (mt : MajorType) (info : AdditionalInfo) (fixed : BitVec 16)
    (h : ∀ c : MtCode, (headerByte c info).setWidth 16 &&& 0x1F#16 = fixed) :
    (TableRow.mk 8 fixed 0x1F).holds (encodeHeader mt info) := ⟨rfl, h _⟩

theorem enc (mt : MajorType) (mag : Int) : Statement (.enc mt mag) := fun _ =>
  ⟨rfl, by
    have key : ∀ c : MtCode, (c.setWidth 16 <<< 11) &&& 0xC7FF#16 = 0x0000#16 := by decide
    exact key _⟩
theorem dec (hb : Byte) : Statement (.dec hb) := fun _ => ⟨rfl, by revert hb; decide⟩
theorem rdm (info : AdditionalInfo) : Statement (.rdm info) := fun _ => ⟨rfl, by revert info; decide⟩
theorem rdh : Statement .rdh := fun _ => ⟨rfl, rfl⟩
theorem hdrDirect0To15 (mt : MajorType) (info : AdditionalInfo) : Statement (.hdrDirect0To15 mt info) := fun h =>
  ⟨rfl, by
    have key : ∀ (c : MtCode) (i : AdditionalInfo), i.toNat ≤ 15 →
        (headerByte c i).setWidth 16 &&& 0x10#16 = 0x00#16 := by decide
    exact key _ _ (by simpa [Instr.wellFormed] using h)⟩
theorem hdrDirect16To23 (mt : MajorType) (info : AdditionalInfo) : Statement (.hdrDirect16To23 mt info) := fun h =>
  ⟨rfl, by
    have key : ∀ (c : MtCode) (i : AdditionalInfo), (16 ≤ i.toNat ∧ i.toNat ≤ 23) →
        (headerByte c i).setWidth 16 &&& 0x18#16 = 0x10#16 := by decide
    exact key _ _ (by simpa [Instr.wellFormed] using h)⟩
theorem hdrAi24 (mt : MajorType) : Statement (.hdrAi24 mt) := fun _ => headerRow mt 24 _ (by decide)
theorem hdrAi25 (mt : MajorType) : Statement (.hdrAi25 mt) := fun _ => headerRow mt 25 _ (by decide)
theorem hdrAi26 (mt : MajorType) : Statement (.hdrAi26 mt) := fun _ => headerRow mt 26 _ (by decide)
theorem hdrAi27 (mt : MajorType) : Statement (.hdrAi27 mt) := fun _ => headerRow mt 27 _ (by decide)
theorem hdrAi28 (mt : MajorType) : Statement (.hdrAi28 mt) := fun _ => headerRow mt 28 _ (by decide)
theorem hdrAi29 (mt : MajorType) : Statement (.hdrAi29 mt) := fun _ => headerRow mt 29 _ (by decide)
theorem hdrAi30 (mt : MajorType) : Statement (.hdrAi30 mt) := fun _ => headerRow mt 30 _ (by decide)
theorem hdrAi31 (mt : MajorType) : Statement (.hdrAi31 mt) := fun _ => headerRow mt 31 _ (by decide)

end Sys2Proof.Laws.TableRow
end

