-- ==== Sys2Proof/Tests/Slice0.lean ====
section
/-! SUPPORT. Smoke tests of the well-formedness check, decoding of words written out from the spec's encodings, one-step vectors
of 95_test_vectors.md, and a witness for the hypotheses of every statement that has some. -/

namespace Sys2Proof.Tests

open Sys2Proof.Machine

/-! ### Ill-formed terms are refused -/

theorem test_wf_direct0_refuses_16 : (Instr.hdrDirect0To15 .dataArray 16).wellFormed = false := by decide
theorem test_wf_direct16_refuses_15 : (Instr.hdrDirect16To23 .dataArray 15).wellFormed = false := by decide
theorem test_wf_direct16_refuses_24 : (Instr.hdrDirect16To23 .dataArray 24).wellFormed = false := by decide

/-! ### Words written out bit by bit (R61 and its words W2 to W10; R60) -/

theorem test_decode_enc : decode (.cmd16 0b0011100000000000 7) = .ok (.enc .simpleValue 7) := by decide
theorem test_decode_dec : decode (.cmd16 0b0100000010000011 0) = .ok (.dec 0x83) := by decide
theorem test_decode_rdm : decode (.cmd16 0b1000000000011011 0) = .ok (.rdm 27) := by decide
theorem test_decode_rdh : decode (.cmd16 0b1100000000000000 0) = .ok .rdh := by decide
theorem test_decode_direct0 : decode (.hdr8 0b00101111) = .ok (.hdrDirect0To15 .negativeInteger 15) := by decide
theorem test_decode_direct16 : decode (.hdr8 0b10110111) = .ok (.hdrDirect16To23 .dataMap 23) := by decide
theorem test_decode_ai24 : decode (.hdr8 0b11011000) = .ok (.hdrAi24 .taggedValue) := by decide
theorem test_decode_ai25 : decode (.hdr8 0b11111001) = .ok (.hdrAi25 .simpleValue) := by decide
theorem test_decode_ai26 : decode (.hdr8 0b01011010) = .ok (.hdrAi26 .byteString) := by decide
theorem test_decode_ai27 : decode (.hdr8 0b00011011) = .ok (.hdrAi27 .unsignedInteger) := by decide
theorem test_decode_ai28 : decode (.hdr8 0b00011100) = .ok (.hdrAi28 .unsignedInteger) := by decide
theorem test_decode_ai29 : decode (.hdr8 0b00111101) = .ok (.hdrAi29 .negativeInteger) := by decide
theorem test_decode_ai30 : decode (.hdr8 0b11111110) = .ok (.hdrAi30 .simpleValue) := by decide
theorem test_decode_ai31 : decode (.hdr8 0b10011111) = .ok (.hdrAi31 .dataArray) := by decide
theorem test_refused_enc : decode (.cmd16 0x0001 0) = .error (.mustBeZero 0x0001) := by decide
theorem test_refused_dec : decode (.cmd16 0x4183 0) = .error (.mustBeZero 0x4183) := by decide
theorem test_refused_rdm : decode (.cmd16 0x803B 0) = .error (.mustBeZero 0x803B) := by decide
theorem test_refused_rdh : decode (.cmd16 0xC001 0) = .error (.mustBeZero 0xC001) := by decide

/-! ### Small states, and what is looked at after a step -/

/-- The reset state with this Sink. -/
def withSink (bytes : List Byte) (answers : List Answer) : State := { State.reset with sinks := [⟨bytes, answers⟩] }

/-- The reset state with this Source. -/
def withSource (bytes : List Byte) (answers : List Answer) : State := { State.reset with sources := [⟨bytes, answers⟩] }

/-- A state whose Caller has this program, bound to the first Sink and the first Source. -/
def withProgram (ops : List LineOp) (s : State) : State :=
  { s with inst := { s.inst with program := ops.map fun op => ⟨op, 0, 0⟩ } }

/-- The state an outcome goes on in. -/
def nextOf : Outcome → Option State
  | .next t => some t
  | .fault _ => none
  | .refused _ => none

/-- Result port and bytes of the Sink. -/
def sinkAfter (o : Outcome) : Option (Option Result × List Byte) := (nextOf o).map fun t => (t.inst.result, t.sinkBytes)

/-- Result port and bytes left in the Source. -/
def sourceAfter (o : Outcome) : Option (Option Result × List Byte) := (nextOf o).map fun t => (t.inst.result, t.sourceBytes)

/-- What the HDRs have yielded, the bytes left in the Source, and the Caller's index. -/
def itemAfter (o : Outcome) : Option (List HdrYield × List Byte × Nat) :=
  (nextOf o).map fun t => (t.inst.headers, t.sourceBytes, t.inst.k)

/-! ### One-step vectors (95_test_vectors.md) -/

/-- E16. -/
theorem test_enc_tag : sinkAfter (exec (.enc .taggedValue 55799) (withSink [0xAA] [])) =
    some (some (.ok (.count 3)), [0xAA, 0xD9, 0xD9, 0xF7]) := by decide
/-- E20. -/
theorem test_enc_2_63 : sinkAfter (exec (.enc .simpleValue (2 ^ 63)) (withSink [] [])) =
    some (some (.ok (.count 9)), [0xFB, 0x80, 0, 0, 0, 0, 0, 0, 0]) := by decide
/-- H10. -/
theorem test_dec_78 : sourceAfter (exec (.dec 0x78) (withSource [1] [])) =
    some (some (.ok (.phase1 ⟨.textString, 24⟩)), [1]) := by decide
/-- H8: a reserved info passes Phase 1. -/
theorem test_dec_3D : sourceAfter (exec (.dec 0x3D) State.reset) =
    some (some (.ok (.phase1 ⟨.negativeInteger, 29⟩)), []) := by decide
/-- M9: zero-extended, not negative. -/
theorem test_rdm_26 : sourceAfter (exec (.rdm 26) (withSource [0x80, 0, 0, 0] [])) =
    some (some (.ok (.resolved (.mag 2147483648))), []) := by decide
/-- M14. -/
theorem test_rdm_27 : sourceAfter (exec (.rdm 27) (withSource [255, 255, 255, 255, 255, 255, 255, 0xFE] [])) =
    some (some (.ok (.resolved (.mag 18446744073709551614))), []) := by decide
/-- D1. -/
theorem test_rdh_1B : sourceAfter (exec .rdh (withSource [0x1B, 0xFF] [])) =
    some (some (.ok (.phase1 ⟨.unsignedInteger, 27⟩)), [0xFF]) := by decide
/-- D4. -/
theorem test_rdh_empty : sourceAfter (exec .rdh State.reset) = some (some (.err .sourceFault), []) := by decide

/-! Steps on an HDR: program P2, P3 and P4 of 95_test_vectors.md, and the vectors M1 to M22 with their header byte before. -/

/-- A state whose next line is an HDR, with these bytes in its Source. -/
def atHdr (bytes : List Byte) : State := withProgram [.hdr, .hdrRest] (withSource bytes [])

/-- P2, line 4. -/
theorem test_hdr_direct0 : itemAfter (step (atHdr [0x83, 0x01])) =
    some ([.header ⟨.dataArray, .mag 3⟩], [0x01], 2) := by decide
/-- H13 and M2. -/
theorem test_hdr_direct16 : itemAfter (step (atHdr [0xB7])) = some ([.header ⟨.dataMap, .mag 23⟩], [], 2) := by decide
/-- P4, line 2: a trailing byte equal to 0xFF is a magnitude. -/
theorem test_hdr_ai24 : itemAfter (step (atHdr [0x18, 0xFF, 0x18])) =
    some ([.header ⟨.unsignedInteger, .mag 255⟩], [0x18], 2) := by decide
/-- P2, line 7. -/
theorem test_hdr_ai25 : itemAfter (step (atHdr [0x19, 0x03, 0xE8])) =
    some ([.header ⟨.unsignedInteger, .mag 1000⟩], [], 2) := by decide
/-- M22. -/
theorem test_hdr_ai26 : itemAfter (step (atHdr [0x1A, 0x00, 0x01, 0x00, 0x00, 0x42])) =
    some ([.header ⟨.unsignedInteger, .mag 65536⟩], [0x42], 2) := by decide
/-- M13. -/
theorem test_hdr_ai27 : itemAfter (step (atHdr [0x1B, 0x80, 0, 0, 0, 0, 0, 0, 0])) =
    some ([.header ⟨.unsignedInteger, .mag 9223372036854775808⟩], [], 2) := by decide
/-- P3, lines 4 and 5, as an HDR. -/
theorem test_hdr_ai28 : itemAfter (step (atHdr [0x1C, 0x3D])) =
    some ([.error (.reservedAdditionalInfo 28)], [0x3D], 2) := by decide
/-- P3, lines 6 and 7, as an HDR. -/
theorem test_hdr_ai29 : itemAfter (step (atHdr [0x3D, 0x1A])) =
    some ([.error (.reservedAdditionalInfo 29)], [0x1A], 2) := by decide
/-- H16 and M18. -/
theorem test_hdr_ai30 : itemAfter (step (atHdr [0xFE, 0x99])) =
    some ([.error (.reservedAdditionalInfo 30)], [0x99], 2) := by decide
/-- P4, line 0. -/
theorem test_hdr_ai31 : itemAfter (step (atHdr [0x9F, 0x01])) =
    some ([.header ⟨.dataArray, .indefinite⟩], [0x01], 2) := by decide
/-- R65: the RDM is not issued, and the program stops at it (R64). -/
theorem test_hdr_no_byte : itemAfter (step (atHdr [])) = some ([.error .sourceFault], [], 1) := by decide

/-! The two-phase obligation (R124): an RDH of line 0 and the RDM that names its item, with nothing between, and with a read of
another header byte with the same info between, by another instance or by the same one. -/

/-- What the obligation says after these moves of a Caller with this program and of another instance, whose program is an RDH, on a
Source with two header bytes of info 25. -/
def twoPhaseAfter (ops : List LineOp) (events : List Event) : Option Bool :=
  let reader : Codec := { Codec.reset with id := 1, program := [⟨.word 0xC000 0, 0, 0⟩] }
  let s : State := { withProgram ops (withSource [0x19, 0x39] []) with events, others := [reader] }
  (events.foldl (fun o _ => o.bind fun t => nextOf (step t)) (some s)).map State.twoPhaseOk

theorem test_two_phase_kept : twoPhaseAfter [.word 0xC000 0, .rdmAt 0] [.run] = some true ∧
    twoPhaseAfter [.hdr, .hdrRest] [.issue, .finish] = some true := by decide
theorem test_two_phase_read_between :
    twoPhaseAfter [.word 0xC000 0, .rdmAt 0] [.run, .switchTo 0, .run, .switchTo 0] = some false ∧
    twoPhaseAfter [.hdr, .hdrRest] [.issue, .finish, .switchTo 0, .run, .switchTo 0] = some false ∧
    twoPhaseAfter [.word 0xC000 0, .word 0xC000 0, .rdmAt 0] [.run, .run] = some false := by decide

/-! Instructions placed after reset, and the assembler. -/

theorem test_placed_enc : sinkAfter (step (State.reset.withFetchWord 16 0x2000)) =
    some (some (.ok (.count 1)), [0x80]) := by decide
theorem test_placed_ai27 : itemAfter (step (State.reset.withFetchWord 8 0xDB)) =
    some ([.header ⟨.taggedValue, .mag 0⟩], [], 2) := by decide
/-- The words of program P3, lines 0, 2 and 3, and an HDR. -/
theorem test_assemble : assemble 0 0 [.enc .textString (-1), .dec 0x5F, .rdmAt 1, .hdr] =
    [⟨.word 0x1800 (-1), 0, 0⟩, ⟨.word 0x405F 0, 0, 0⟩, ⟨.rdmAt 1, 0, 0⟩, ⟨.hdr, 0, 0⟩, ⟨.hdrRest, 0, 0⟩] := by decide

/-! ### Witnesses: states and operands that meet the hypotheses of the statements -/

theorem reset_sink_accepts (n : Nat) : SinkAccepts n State.reset := ⟨⟨[], []⟩, rfl, by simp⟩
theorem source_open (bytes : List Byte) (n : Nat) : SourceOpen n (withSource bytes []) := ⟨⟨bytes, []⟩, rfl, by simp⟩
theorem reset_inv : State.reset.Inv :=
  ⟨⟨rfl, by simp [State.reset, Codec.reset], by simp [State.reset, Codec.reset], by simp [State.reset, Codec.reset],
    by simp [State.reset, Codec.reset], by simp [State.reset, Codec.reset], by simp [State.reset, Codec.reset]⟩,
    by simp [State.reset], List.pairwise_singleton _ _, List.Pairwise.nil⟩

theorem witness_EncNegativeWritesNothing : (-1 : Int) < 0 := by decide
theorem witness_EncDirectTierEmitsOneByte : (0 : Int) ≤ 0 ∧ (0 : Int) ≤ 23 ∧ (23 : Int) ≤ 23 ∧ SinkAccepts 1 State.reset :=
  ⟨by decide, by decide, by decide, reset_sink_accepts 1⟩
theorem witness_EncOneByteTierEmitsTwoBytes :
    (24 : Int) ≤ 24 ∧ (24 : Int) ≤ 255 ∧ (255 : Int) ≤ 255 ∧ SinkAccepts 2 State.reset :=
  ⟨by decide, by decide, by decide, reset_sink_accepts 2⟩
theorem witness_EncTwoByteTierEmitsThreeBytes :
    (256 : Int) ≤ 256 ∧ (256 : Int) ≤ 65535 ∧ (65535 : Int) ≤ 65535 ∧ SinkAccepts 2 State.reset :=
  ⟨by decide, by decide, by decide, reset_sink_accepts 2⟩
theorem witness_EncFourByteTierEmitsFiveBytes :
    (65536 : Int) ≤ 65536 ∧ (65536 : Int) ≤ 4294967295 ∧ (4294967295 : Int) ≤ 4294967295 ∧ SinkAccepts 2 State.reset :=
  ⟨by decide, by decide, by decide, reset_sink_accepts 2⟩
/-- Its two clauses: 2^32, below the top bit, and 2^63, where the last clause applies. -/
theorem witness_EncEightByteTierEmitsNineBytes :
    ((4294967296 : Int) ≤ 4294967296 ∧ (4294967296 : Int) ≤ 2 ^ 64 - 1) ∧
    ((4294967296 : Int) ≤ 2 ^ 63 ∧ (2 ^ 63 : Int) ≤ 2 ^ 64 - 1 ∧ (2 ^ 63 : Int) > 2 ^ 63 - 1) ∧ SinkAccepts 2 State.reset :=
  ⟨by decide, by decide, reset_sink_accepts 2⟩
theorem witness_EncOverflowWritesNothing : (2 ^ 64 : Int) > 2 ^ 64 - 1 ∧ SinkAccepts 2 State.reset :=
  ⟨by decide, reset_sink_accepts 2⟩
/-- For the statements on every magnitude in range: both ends of it. -/
theorem witness_EncInRange :
    ((0 : Int) ≤ 0 ∧ (0 : Int) ≤ 2 ^ 64 - 1 ∧ SinkAccepts (writeAccesses 0) State.reset) ∧
    ((0 : Int) ≤ 2 ^ 64 - 1 ∧ (2 ^ 64 - 1 : Int) ≤ 2 ^ 64 - 1 ∧ SinkAccepts (writeAccesses (2 ^ 64 - 1)) State.reset) :=
  ⟨⟨by decide, by decide, reset_sink_accepts _⟩, ⟨by decide, by decide, reset_sink_accepts _⟩⟩
theorem witness_EncAppendsClosedForm :
    (0 : Int) ≤ 1000000 ∧ (1000000 : Int) ≤ 2 ^ 64 - 1 ∧ SinkAccepts (writeAccesses 1000000) State.reset :=
  ⟨by decide, by decide, reset_sink_accepts _⟩
theorem witness_EncEmitsMinimalInfo :
    (0 : Int) ≤ 23 ∧ (23 : Int) ≤ 2 ^ 64 - 1 ∧ SinkAccepts (writeAccesses 23) State.reset :=
  ⟨by decide, by decide, reset_sink_accepts _⟩
theorem witness_EncMajorTypeOnlySetsTopBits :
    (0 : Int) ≤ 24 ∧ (24 : Int) ≤ 2 ^ 64 - 1 ∧ SinkAccepts (writeAccesses 24) State.reset :=
  ⟨by decide, by decide, reset_sink_accepts _⟩
/-- A fault on the header byte, and one on the trailing bytes (vector E26). -/
theorem witness_EncSinkFaultLeavesPrefix :
    ((0 : Int) ≤ 7 ∧ (7 : Int) ≤ 2 ^ 64 - 1 ∧ SinkFaults (writeAccesses 7) (withSink [] [.fault])) ∧
    ((0 : Int) ≤ 256 ∧ (256 : Int) ≤ 2 ^ 64 - 1 ∧ SinkFaults (writeAccesses 256) (withSink [] [.accept, .fault])) :=
  ⟨⟨by decide, by decide, ⟨_, rfl, by decide⟩⟩, ⟨by decide, by decide, ⟨_, rfl, by decide⟩⟩⟩
theorem witness_EncFrame : ∃ t, exec (.enc .byteString 24) (withSink [0xAA] []) = .next t := ⟨_, rfl⟩
theorem witness_EncDependsOnItsSinkOnly :
    (withSink [] []).sink? = (withSource [1] []).sink? ∧ (withSink [] []).draws = (withSource [1] []).draws ∧
      (withSink [] []).sink?.isSome = true := by decide
theorem witness_DecFrame : ∃ t, exec (.dec 0x5F) State.reset = .next t := ⟨_, rfl⟩
theorem witness_RdmDirectInfoIsTheMagnitude : (0 : AdditionalInfo).toNat < 24 ∧ (23 : AdditionalInfo).toNat < 24 := by decide
theorem witness_RdmReadsOneByte :
    SourceOpen 1 (withSource [0xFF, 0xAA] []) ∧ (withSource [0xFF, 0xAA] []).sourceBytes = 0xFF :: [0xAA] :=
  ⟨source_open _ 1, rfl⟩
theorem witness_RdmReadsTwoBytes :
    SourceOpen 1 (withSource [1, 0] []) ∧ (withSource [1, 0] []).sourceBytes = 1 :: 0 :: [] := ⟨source_open _ 1, rfl⟩
theorem witness_RdmReadsFourBytes :
    SourceOpen 1 (withSource [0x80, 0, 0, 0] []) ∧ (withSource [0x80, 0, 0, 0] []).sourceBytes = 0x80 :: 0 :: 0 :: 0 :: [] ∧
      (0x80 : Byte).toNat ≥ 0x80 := ⟨source_open _ 1, rfl, by decide⟩
/-- Its two clauses: 2^63 − 1 and 2^63. -/
theorem witness_RdmReadsEightBytesUnsigned :
    (SourceOpen 1 (withSource [0x7F, 255, 255, 255, 255, 255, 255, 255] []) ∧
      (withSource [0x7F, 255, 255, 255, 255, 255, 255, 255] []).sourceBytes =
        (List.range 8).map (fun j => (0x7FFFFFFFFFFFFFFF#64).extractLsb' (8 * (7 - j)) 8) ++ [] ∧
      (0x7FFFFFFFFFFFFFFF#64).toInt ≥ 0) ∧
    (SourceOpen 1 (withSource [0x80, 0, 0, 0, 0, 0, 0, 0] []) ∧
      (withSource [0x80, 0, 0, 0, 0, 0, 0, 0] []).sourceBytes =
        (List.range 8).map (fun j => (0x8000000000000000#64).extractLsb' (8 * (7 - j)) 8) ++ [] ∧
      (0x8000000000000000#64).toInt < 0) :=
  ⟨⟨source_open _ 1, by decide, by decide⟩, ⟨source_open _ 1, by decide, by decide⟩⟩
theorem witness_RdmRejectsReservedInfo : (28 : AdditionalInfo) = 28 ∨ (28 : AdditionalInfo) = 29 ∨ (28 : AdditionalInfo) = 30 :=
  .inl rfl
theorem witness_RdmAcceptsNonMinimalFields :
    trailingBytes 25 ≠ 0 ∧ 5 < 2 ^ (8 * trailingBytes 25) ∧ SourceOpen 1 (withSource [0, 5] []) ∧
      (withSource [0, 5] []).sourceBytes = beBytes (trailingBytes 25) 5 ++ [] :=
  ⟨by decide, by decide, source_open _ 1, by decide⟩
/-- A short read (vector M20), and a Source that signals that it is closed. -/
theorem witness_RdmSourceFaultConsumesSome :
    (trailingBytes 25 ≠ 0 ∧ SourceFails (trailingBytes 25) (withSource [1] [])) ∧
    (trailingBytes 24 ≠ 0 ∧ SourceFails (trailingBytes 24) (withSource [1] [.fault])) :=
  ⟨⟨by decide, ⟨_, rfl, .inr (by decide)⟩⟩, ⟨by decide, ⟨_, rfl, .inl rfl⟩⟩⟩
theorem witness_RdmDependsOnInfoAndSource :
    (withSource [1, 2] []).source? = ({ withSource [1, 2] [] with draws := 3 } : State).source? ∧
      (trailingBytes 31 = 0 ∨ (withSource [1, 2] []).source?.isSome = true) := by decide
theorem witness_RdhReadsAndSplits :
    (SourceOpen 1 (withSource [0x1B, 0xFF] []) ∧ (withSource [0x1B, 0xFF] []).sourceBytes = 0x1B :: [0xFF]) ∧
      SourceFails 1 (withSource [] []) :=
  ⟨⟨source_open _ 1, rfl⟩, ⟨_, rfl, .inr (by decide)⟩⟩
theorem witness_RdmRdhFrame :
    (∃ t, exec .rdh (withSource [0x1B] []) = .next t) ∧ ∃ t, exec (.rdm 24) (withSource [5] []) = .next t :=
  ⟨⟨_, rfl⟩, ⟨_, rfl⟩⟩
/-- The bytes that ENC appends for 2^63 under UnsignedInteger (S8), with one more byte behind them. -/
theorem witness_RoundTripOfEncoderAndDecoder :
    (0 : Int) ≤ 2 ^ 63 ∧ (2 ^ 63 : Int) ≤ 2 ^ 64 - 1 ∧ SinkAccepts (writeAccesses (2 ^ 63)) State.reset ∧
      SourceOpen 2 (withSource [0x1B, 0x80, 0, 0, 0, 0, 0, 0, 0, 0x42] []) ∧
      (withSource [0x1B, 0x80, 0, 0, 0, 0, 0, 0, 0, 0x42] []).sourceBytes = [0x1B, 0x80, 0, 0, 0, 0, 0, 0, 0] ++ [0x42] :=
  ⟨by decide, by decide, reset_sink_accepts _, source_open _ 2, rfl⟩
theorem witness_DirectItemsYieldTheirInfo :
    (Instr.hdrDirect0To15 .dataArray 15).wellFormed = true ∧ (Instr.hdrDirect16To23 .dataArray 16).wellFormed = true := by
  decide
theorem witness_FieldItemsYieldTheirField :
    (Instr.hdrAi25 .textString, 2) ∈ [(Instr.hdrAi24 .textString, 1), (.hdrAi25 .textString, 2), (.hdrAi26 .textString, 4),
        (.hdrAi27 .textString, 8)] ∧
      500 < 2 ^ (8 * 2) ∧ SourceOpen 1 (withSource [0x01, 0xF4] []) ∧
      (withSource [0x01, 0xF4] []).sourceBytes = beBytes 2 500 ++ [] :=
  ⟨by decide, by decide, source_open _ 1, by decide⟩
theorem witness_FieldItemsYieldSourceFault :
    (Instr.hdrAi27 .textString, 8) ∈ [(Instr.hdrAi24 .textString, 1), (.hdrAi25 .textString, 2), (.hdrAi26 .textString, 4),
        (.hdrAi27 .textString, 8)] ∧ SourceFails 8 (withSource [] []) :=
  ⟨by decide, ⟨_, rfl, .inr (by decide)⟩⟩
theorem witness_ReservedItemsYieldTheError :
    (Instr.hdrAi29 .dataMap, (29 : AdditionalInfo)) ∈
      [(Instr.hdrAi28 .dataMap, (28 : AdditionalInfo)), (.hdrAi29 .dataMap, 29), (.hdrAi30 .dataMap, 30)] := by decide
theorem witness_ItemFrame :
    isItem (.hdrAi31 .byteString) = true ∧ ∃ t, exec (.hdrAi31 .byteString) State.reset = .next t := ⟨rfl, ⟨_, rfl⟩⟩
/-- Its two clauses: no Source bound, and a Source with the byte. -/
theorem witness_ItemIsRdmAndYield :
    (∃ r, exec (.rdm 24) { State.reset with sources := [] } = .refused r) ∧
      ∃ t, exec (.rdm 24) (withSource [5] []) = .next t := ⟨⟨_, rfl⟩, ⟨_, rfl⟩⟩
/-- A range error, and a fault of the Sink and of the Source. -/
theorem witness_StatusCodesAndTheirCauses :
    (∃ t, exec (.enc .dataArray (-1)) State.reset = .next t) ∧
    (∃ t, exec (.enc .dataArray 7) (withSink [] [.fault]) = .next t ∧ t.inst.result = some (.err .sinkFault)) ∧
    ∃ t, exec (.rdm 25) (withSource [1] []) = .next t ∧ t.inst.result = some (.err .sourceFault) :=
  ⟨⟨_, rfl⟩, ⟨_, rfl, rfl⟩, ⟨_, rfl, rfl⟩⟩
/-- Its second clause: a word that is refused is the next line. -/
theorem witness_LegalCommandWords :
    (withProgram [.word 0xC001 0] State.reset).events = [] ∧ (withProgram [.word 0xC001 0] State.reset).inst.inFlight = none ∧
      (withProgram [.word 0xC001 0] State.reset).inst.program[0]? = some ⟨.word 0xC001 0, 0, 0⟩ ∧
      ∀ i, decode (.cmd16 0xC001 0) ≠ .ok i :=
  ⟨rfl, rfl, rfl, fun i h => by have h' : Except.error (DecodeError.mustBeZero 0xC001) = Except.ok i := h; cases h'⟩
theorem witness_DecodeOfEncode : (Instr.hdrDirect16To23 .taggedValue 23).wellFormed = true := by decide
theorem witness_EncodeOfDecode : decode (.cmd16 0x3800 (-5)) = .ok (.enc .simpleValue (-5)) := by decide
theorem witness_BigEndianBytesRoundTrip : 0x0102 < 2 ^ (8 * 2) := by decide
theorem witness_StepRunsTheDecodedCommand :
    let s := withProgram [.word 0x2000 3] State.reset
    s.events = [] ∧ s.inst.inFlight = none ∧ s.inst.program[s.inst.k]? = some ⟨.word 0x2000 3, 0, 0⟩ ∧
      decode (.cmd16 0x2000 3) = .ok (.enc .dataArray 3) ∧ overlaps (.enc .dataArray 3) ⟨.word 0x2000 3, 0, 0⟩ s = false := by
  decide
theorem witness_StepRunsTheDecodedHeader :
    let s := atHdr [0x83, 0x01]
    (s.events = [] ∧ s.inst.inFlight = none ∧ s.inst.program[s.inst.k]? = some ⟨.hdr, 0, 0⟩ ∧
      s.inst.program[s.inst.k + 1]? = some ⟨.hdrRest, 0, 0⟩ ∧ overlaps .rdh ⟨.hdr, 0, 0⟩ s = false) ∧
      SourceOpen 1 { s with boundSink := 0, boundSource := 0 } ∧
      State.sourceBytes { s with boundSink := 0, boundSource := 0 } = 0x83 :: [0x01] :=
  ⟨by decide, ⟨_, rfl, by decide⟩, rfl⟩
/-- Its three clauses: a run of the line, its issue, and the return of its RDH. -/
theorem witness_HdrYieldsTheRdhError :
    (let s := atHdr [];
      (s.events = [] ∧ s.inst.inFlight = none ∧ s.inst.program[s.inst.k]? = some ⟨.hdr, 0, 0⟩ ∧
        overlaps .rdh ⟨.hdr, 0, 0⟩ s = false) ∧ SourceFails 1 { s with boundSink := 0, boundSource := 0 }) ∧
    (let s : State := { atHdr [] with events := [.issue] };
      s.events.head? = some .issue ∧ s.inst.inFlight = none ∧ s.inst.program[s.inst.k]? = some ⟨.hdr, 0, 0⟩ ∧
        overlaps .rdh ⟨.hdr, 0, 0⟩ s = false) ∧
    (let s : State := { State.reset with
        events := [.finish], inst := { Codec.reset with inFlight := some ⟨.rdh, ⟨.hdr, 0, 0⟩⟩ } };
      (s.events.head? = some .finish ∧ s.inst.inFlight = some ⟨.rdh, ⟨.hdr, 0, 0⟩⟩) ∧
        SourceFails 1 { s with boundSink := 0, boundSource := 0 }) :=
  ⟨⟨by decide, ⟨_, rfl, .inr (by decide)⟩⟩, by decide, by decide, ⟨_, rfl, .inr (by decide)⟩⟩

/-- A Codec that has run `DEC 0x5F` and whose next line is `RDM @0.info` (program P3, lines 2 and 3). -/
def afterDec : State :=
  let s := withProgram [.word 0x405F 0, .rdmAt 0] State.reset
  { s with inst := { s.inst with k := 1, results := [.ok (.phase1 ⟨.byteString, 31⟩)] } }

/-- Its two clauses: line 0 returned a Phase1, and no line has number 5. -/
theorem witness_StepResolvesInfoOfAnEarlierLine :
    (afterDec.events = [] ∧ afterDec.inst.inFlight = none ∧
      afterDec.inst.program[afterDec.inst.k]? = some ⟨.rdmAt 0, 0, 0⟩ ∧
      afterDec.inst.results[0]? = some (.ok (.phase1 ⟨.byteString, 31⟩)) ∧
      overlaps (.rdm 31) ⟨.rdmAt 0, 0, 0⟩ afterDec = false) ∧
    ((withProgram [.rdmAt 5] State.reset).inst.program[0]? = some ⟨.rdmAt 5, 0, 0⟩ ∧
      ∀ p, (withProgram [.rdmAt 5] State.reset).inst.results[5]? ≠ some (.ok (.phase1 p))) :=
  ⟨by decide, rfl, fun p h => by cases h⟩

/-- An instance with an RDH in progress on the first Source. -/
def busyReader : Codec := { Codec.reset with id := 1, inFlight := some ⟨.rdh, ⟨.word 0xC000 0, 7, 0⟩⟩ }

/-- An instance with an ENC in progress on the first Sink. -/
def busyWriter : Codec := { Codec.reset with id := 1, inFlight := some ⟨.enc .dataArray 3, ⟨.word 0x2000 3, 0, 7⟩⟩ }

/-- Its two clauses: another instance writes the Sink, or reads the Source; and the acting one is busy. -/
theorem witness_StepRefusesOverlapOnAStream :
    (let s : State := { withProgram [.word 0x0000 7] State.reset with others := [busyWriter] };
      s.events = [] ∧ s.inst.inFlight = none ∧ s.inst.program[s.inst.k]? = some ⟨.word 0x0000 7, 0, 0⟩ ∧
        busyWriter ∈ s.others ∧ busyWriter.inFlight = some ⟨.enc .dataArray 3, ⟨.word 0x2000 3, 0, 7⟩⟩ ∧
        usesSink (.enc .dataArray 3) = true ∧ usesSink (.enc .unsignedInteger 7) = true) ∧
    resolve (.word 0x0000 7) (withProgram [.word 0x0000 7] State.reset).inst = .ok (.enc .unsignedInteger 7) ∧
    (let s : State := { withProgram [.word 0x801B 0] State.reset with others := [busyReader] };
      s.events = [] ∧ s.inst.inFlight = none ∧ s.inst.program[s.inst.k]? = some ⟨.word 0x801B 0, 0, 0⟩ ∧
        busyReader ∈ s.others ∧ busyReader.inFlight = some ⟨.rdh, ⟨.word 0xC000 0, 7, 0⟩⟩ ∧
        usesSource .rdh = true ∧ usesSource (.rdm 27) = true) ∧
    resolve (.word 0x801B 0) (withProgram [.word 0x801B 0] State.reset).inst = .ok (.rdm 27) ∧
    ({ State.reset with inst := busyReader } : State).inst.inFlight = some ⟨.rdh, ⟨.word 0xC000 0, 7, 0⟩⟩ :=
  ⟨by decide, rfl, by decide, rfl, rfl⟩
theorem witness_StepEndsAfterTheLastLine :
    State.reset.events = [] ∧ State.reset.inst.inFlight = none ∧ State.reset.inst.program.length ≤ State.reset.inst.k := by
  decide
theorem witness_IssueThenFinishIsRun :
    let s : State := { withProgram [.word 0x2000 3] State.reset with events := [.run] }
    s.inst.program[s.inst.k]? = some ⟨.word 0x2000 3, 0, 0⟩ ∧ (LineOp.word 0x2000 3) ≠ .hdr ∧ s.events = [.run] ∧
      ∃ t, step s = .next t := ⟨rfl, by decide, rfl, ⟨_, rfl⟩⟩
theorem witness_HdrIsItsTwoLines :
    let s := atHdr [0x83, 0x01]
    s.Inv ∧ (s.inst.program[s.inst.k]? = some ⟨.hdr, 0, 0⟩ ∧ s.inst.program[s.inst.k + 1]? = some ⟨.hdrRest, 0, 0⟩ ∧
      s.inst.inFlight = none ∧ overlaps .rdh ⟨.hdr, 0, 0⟩ s = false) ∧
      SourceOpen 1 { s with boundSink := 0, boundSource := 0 } ∧
      State.sourceBytes { s with boundSink := 0, boundSource := 0 } ≠ [] :=
  ⟨⟨⟨rfl, reset_inv.inst.legal, reset_inv.inst.yields, reset_inv.inst.port, reset_inv.inst.busy, reset_inv.inst.formed,
    reset_inv.inst.hdrLine⟩, reset_inv.others, List.pairwise_singleton _ _, reset_inv.due⟩, by decide, ⟨_, rfl, by decide⟩, by decide⟩
/-- Its two clauses: idle, and with an RDH in progress on a Source that is there. -/
theorem witness_ResetAbandonsACommandInProgress :
    (({ State.reset with events := [.reset] } : State).events = [.reset] ∧ State.reset.inst.inFlight = none) ∧
    (({ State.reset with events := [.reset], inst := busyReader } : State).inst.inFlight =
        some ⟨.rdh, ⟨.word 0xC000 0, 7, 0⟩⟩ ∧ State.reset.sources[0]? = some ⟨[], []⟩) := by decide
/-- Its two clauses: a run, and a turn to another instance. -/
theorem witness_StepKeepsTheOtherInstances :
    (∃ t, step (withProgram [.word 0x4000 0] State.reset) = .next t) ∧
      ∃ t, step { State.reset with events := [.switchTo 0], others := [busyReader] } = .next t := ⟨⟨_, rfl⟩, ⟨_, rfl⟩⟩
theorem witness_StepAppendsToSinksAndConsumesSources :
    ∃ t, step (withProgram [.word 0xC000 0] (withSource [0x83] [])) = .next t := ⟨_, rfl⟩
theorem witness_StepKeepsInv :
    State.Inv { State.reset with events := [.reset] } ∧ ∃ t, step { State.reset with events := [.reset] } = .next t :=
  ⟨⟨reset_inv.inst, reset_inv.others, List.pairwise_singleton _ _, reset_inv.due⟩, ⟨_, rfl⟩⟩
theorem witness_StepKeepsStreamsExclusive :
    State.exclusive { withProgram [.word 0x4000 0] State.reset with events := [.issue] } ∧
      ∃ t, step { withProgram [.word 0x4000 0] State.reset with events := [.issue] } = .next t :=
  ⟨by simp [State.exclusive, withProgram, State.reset], ⟨_, rfl⟩⟩
/-- Its five clauses: an RDH and its RDM; an RDH, with the RDM that names its item and with an `RDM 3` that names none; an RDM and
a failed RDH, and an `RDM 3` after each; a reset of an RDH in progress; a refusal. -/
theorem witness_RdmAfterRdhIsTwoPhase :
    (let s := withProgram [.word 0xC000 0, .rdmAt 0] (withSource [0x83] []);
      s.Inv ∧ (s.events = [] ∧ s.inst.program[s.inst.k]? = some ⟨.word 0xC000 0, 0, 0⟩ ∧
        s.inst.program[s.inst.k + 1]? = some ⟨.rdmAt s.inst.k, 0, 0⟩) ∧ ∃ t, step s = .next t) ∧
    (∃ t, exec .rdh (withProgram [.word 0xC000 0, .rdmAt 0] (withSource [0x83] [])) = .next t ∧
      t.inst.result = some (.ok (.phase1 ⟨.dataArray, 3⟩)) ∧ NextRdm t 0 (some 0) 3 ∧
      NextRdm { withProgram [.word 0x8003 0] State.reset with due := t.due } 0 none 3) ∧
    (∃ t, exec (.rdm 24) (withSource [5] []) = .next t ∧
      NextRdm { withProgram [.word 0x8003 0] State.reset with due := t.due } 0 none 3) ∧
    (∃ t, exec .rdh State.reset = .next t ∧ t.inst.result = some (.err .sourceFault) ∧
      NextRdm { withProgram [.word 0x8003 0] State.reset with due := t.due } 0 none 3) ∧
    (readLength .rdh ≠ 0 ∧ ∃ t, step { State.reset with events := [.reset], inst := busyReader } = .next t ∧
      NextRdm { withProgram [.word 0x8003 0] State.reset with due := t.due } 0 none 3) ∧
    ∃ r, exec .rdh { State.reset with sources := [] } = .refused r :=
  ⟨⟨⟨⟨rfl, reset_inv.inst.legal, reset_inv.inst.yields, reset_inv.inst.port, reset_inv.inst.busy, reset_inv.inst.formed,
    reset_inv.inst.hdrLine⟩, reset_inv.others, List.pairwise_singleton _ _, reset_inv.due⟩, by decide, ⟨_, rfl⟩⟩,
    ⟨_, rfl, rfl, ⟨_, _, rfl, rfl, rfl, rfl, rfl⟩, ⟨_, _, rfl, rfl, rfl, rfl, rfl⟩⟩,
    ⟨_, rfl, ⟨_, _, rfl, rfl, rfl, rfl, rfl⟩⟩, ⟨_, rfl, rfl, ⟨_, _, rfl, rfl, rfl, rfl, rfl⟩⟩,
    ⟨by decide, _, rfl, ⟨_, _, rfl, rfl, rfl, rfl, rfl⟩⟩, ⟨_, rfl⟩⟩

end Sys2Proof.Tests
end

section
/-! SUPPORT. What ENC can do, said once, and the causes of every instruction's result. -/

namespace Sys2Proof.Machine

/-! ### The bytes of a magnitude -/

@[simp] theorem length_beBytes (n v : Nat) : (beBytes n v).length = n := by
  induction n with
  | zero => rfl
  | succ n ih => simp [beBytes, ih]

/-- A byte written by `MemWrite(SINK, 1, _)` is that byte. -/
@[simp] theorem beBytes_one_toNat (b : Byte) : beBytes 1 b.toNat = [b] := by simp [beBytes]

/-- The big-endian bytes of a magnitude, each as a byte of the integer ENC is given. -/
theorem beBytes_toNat {m : Int} (hm : 0 ≤ m) (n : Nat) :
    beBytes n m.toNat = (List.range n).map fun j => BitVec.ofInt 8 (m / 2 ^ (8 * (n - 1 - j))) := by
  obtain ⟨v, rfl⟩ := Int.eq_ofNat_of_zero_le hm
  have hbyte : ∀ k : Nat, BitVec.ofInt 8 ((v : Int) / 2 ^ k) = BitVec.ofNat 8 (v / 2 ^ k) := by
    intro k
    rw [← BitVec.ofInt_natCast]
    push_cast
    rfl
  simp only [Int.toNat_natCast, hbyte]
  induction n with
  | zero => rfl
  | succ n ih =>
    rw [List.range_succ_eq_map, beBytes, ih]
    simp [Function.comp_def, Nat.sub_sub, Nat.add_comm 1]

/-- A byte of a 64-bit pattern is that byte of the integer the pattern was made from: in particular `m` and `m − 2^64` have
the same bytes (R77). -/
theorem extractLsb'_ofInt_sub {m : Int} (h0 : 0 ≤ m) (hm : m ≤ 2 ^ 64 - 1) (k : Nat) :
    (BitVec.ofInt 64 (m - 2 ^ 64)).extractLsb' k 8 = BitVec.ofInt 8 (m / 2 ^ k) := by
  have hpat : (BitVec.ofInt 64 (m - 2 ^ 64)).toNat = m.toNat := by
    rw [BitVec.toNat_ofInt]
    omega
  apply BitVec.eq_of_toNat_eq
  rw [BitVec.extractLsb'_toNat, hpat, BitVec.toNat_ofInt, Nat.shiftRight_eq_div_pow]
  obtain ⟨v, rfl⟩ := Int.eq_ofNat_of_zero_le h0
  rw [Int.toNat_natCast]
  norm_cast

/-! ### The tiers (R73 to R77, R83) -/

theorem infoOf_direct {m : Nat} (h : m ≤ 23) : infoOf m = BitVec.ofNat 5 m := if_pos h
theorem nTrail_direct {m : Nat} (h : m ≤ 23) : nTrail m = 0 := if_pos h

theorem tier_ai24 {m : Nat} (hl : 24 ≤ m) (hu : m ≤ 255) : infoOf m = 24 ∧ nTrail m = 1 := by
  have h23 : ¬ m ≤ 23 := by omega
  simp [infoOf, nTrail, h23, hu]

theorem tier_ai25 {m : Nat} (hl : 256 ≤ m) (hu : m ≤ 65535) : infoOf m = 25 ∧ nTrail m = 2 := by
  have h23 : ¬ m ≤ 23 := by omega
  have h255 : ¬ m ≤ 255 := by omega
  simp [infoOf, nTrail, h23, h255, hu]

theorem tier_ai26 {m : Nat} (hl : 65536 ≤ m) (hu : m ≤ 4294967295) : infoOf m = 26 ∧ nTrail m = 4 := by
  have h23 : ¬ m ≤ 23 := by omega
  have h255 : ¬ m ≤ 255 := by omega
  have h65535 : ¬ m ≤ 65535 := by omega
  simp [infoOf, nTrail, h23, h255, h65535, hu]

theorem tier_ai27 {m : Nat} (hl : 4294967296 ≤ m) : infoOf m = 27 ∧ nTrail m = 8 := by
  have h23 : ¬ m ≤ 23 := by omega
  have h255 : ¬ m ≤ 255 := by omega
  have h65535 : ¬ m ≤ 65535 := by omega
  have h32 : ¬ m ≤ 4294967295 := by omega
  simp [infoOf, nTrail, h23, h255, h65535, h32]

/-- The five tiers of a magnitude: its info and the number of its trailing bytes (R83). -/
theorem tier_cases (m : Nat) :
    (m ≤ 23 ∧ infoOf m = BitVec.ofNat 5 m ∧ nTrail m = 0) ∨ (infoOf m = 24 ∧ nTrail m = 1) ∨
    (infoOf m = 25 ∧ nTrail m = 2) ∨ (infoOf m = 26 ∧ nTrail m = 4) ∨ (infoOf m = 27 ∧ nTrail m = 8) := by
  by_cases h23 : m ≤ 23
  · exact .inl ⟨h23, infoOf_direct h23, nTrail_direct h23⟩
  by_cases h255 : m ≤ 255
  · exact .inr (.inl (tier_ai24 (by omega) h255))
  by_cases h65535 : m ≤ 65535
  · exact .inr (.inr (.inl (tier_ai25 (by omega) h65535)))
  by_cases h32 : m ≤ 4294967295
  · exact .inr (.inr (.inr (.inl (tier_ai26 (by omega) h32))))
  · exact .inr (.inr (.inr (.inr (tier_ai27 (by omega)))))

/-- The emitted info stands for as many trailing bytes as ENC appends (R53, R79). -/
theorem trailingBytes_infoOf (m : Nat) : trailingBytes (infoOf m) = nTrail m := by
  rcases tier_cases m with ⟨h, hi, hn⟩ | ⟨hi, hn⟩ | ⟨hi, hn⟩ | ⟨hi, hn⟩ | ⟨hi, hn⟩ <;> rw [hi, hn]
  case inl =>
    have direct : ∀ v : Fin 24, trailingBytes (BitVec.ofNat 5 v) = 0 := by decide
    exact direct ⟨m, by omega⟩
  all_goals rfl

@[simp] theorem length_encodeBytes (c : MtCode) (m : Nat) : (encodeBytes c m).length = 1 + nTrail m := by
  simp [encodeBytes, Nat.add_comm]

theorem encodeBytes_direct (c : MtCode) {m : Nat} (h : m ≤ 23) :
    encodeBytes c m = [headerByte c (BitVec.ofNat 5 m)] := by
  rw [encodeBytes, infoOf_direct h, nTrail_direct h, beBytes]

/-- The header byte of the direct tier, with the magnitude written into its low bits (R73). -/
theorem headerByte_ofNat (c : MtCode) {m : Int} (h0 : 0 ≤ m) (h : m ≤ 23) :
    headerByte c (BitVec.ofNat 5 m.toNat) = (c.setWidth 8 <<< 5) ||| BitVec.ofInt 8 m := by
  have hlow : (BitVec.ofNat 5 m.toNat).setWidth 8 = BitVec.ofInt 8 m := by
    apply BitVec.eq_of_toNat_eq
    rw [BitVec.toNat_setWidth, BitVec.toNat_ofNat, BitVec.toNat_ofInt]
    omega
  rw [headerByte, hlow]

@[simp] theorem headerCode_headerByte (c : MtCode) (i : AdditionalInfo) : headerCode (headerByte c i) = c := by
  revert c i
  decide

@[simp] theorem headerInfo_headerByte (c : MtCode) (i : AdditionalInfo) : headerInfo (headerByte c i) = i := by
  revert c i
  decide

/-! ### The answers of a Sink -/

/-- One of the next n + 1 accesses is answered with a fault: the first one, or one of the n after it. -/
theorem fault_mem_take_succ (as : List Answer) (n : Nat) :
    Answer.fault ∈ as.take (n + 1) ↔ as.head? = some .fault ∨ Answer.fault ∈ as.tail.take n := by
  cases as with
  | nil => simp
  | cons a as => simp [eq_comm]

/-- What is left of the answers once the access with the first fault has been made. -/
def answersAfterFault (as : List Answer) : List Answer := as.drop (as.idxOf .fault + 1)

theorem answersAfterFault_of_head {as : List Answer} (h : as.head? = some .fault) : answersAfterFault as = as.tail := by
  cases as with
  | nil => simp at h
  | cons a as =>
    obtain rfl : a = .fault := by simpa using h
    simp [answersAfterFault]

theorem answersAfterFault_of_tail {as : List Answer} (h : as.head? ≠ some .fault) :
    answersAfterFault as = answersAfterFault as.tail := by
  cases as with
  | nil => rfl
  | cons a as =>
    have ha : a ≠ .fault := by simpa using h
    simp [answersAfterFault, List.idxOf_cons_ne _ ha]

/-! ### Writing -/

@[simp] theorem setSink_setSink (a b : Sink) (s : State) : (s.setSink a).setSink b = s.setSink b := by
  simp [State.setSink]

/-- What the Sink held does not bear on what a fault leaves there. -/
@[simp] theorem partialWrite_setSink (a k : Sink) (bs : List Byte) (s : State) :
    partialWrite k bs (s.setSink a) = partialWrite k bs s := by
  simp [partialWrite]

@[simp] theorem complete_sinkBytes (r : Result) (s : State) : (complete r s).sinkBytes = s.sinkBytes := rfl

theorem sinkBytes_of_sink? {s : State} {k : Sink} (h : s.sink? = some k) : s.sinkBytes = k.bytes := by
  simp [State.sinkBytes, h]

section Write

variable {s : State} {k : Sink} {fault next : State → Outcome}

theorem writeThen_unbound (n v : Nat) (h : s.sink? = none) : writeThen n v s fault next = .refused .unboundSink := by
  simp [writeThen, memWrite_unbound n v h]

theorem writeThen_accept (n v : Nat) (h : s.sink? = some k) (ha : k.answers.head? ≠ some .fault) :
    writeThen n v s fault next = next (s.setSink ⟨k.bytes ++ beBytes n v, k.answers.tail⟩) := by
  simp [writeThen, memWrite_accept n v h ha]

theorem writeThen_fault (n v : Nat) (h : s.sink? = some k) (ha : k.answers.head? = some .fault) :
    writeThen n v s fault next = fault (s.setSink ⟨k.bytes, k.answers.tail⟩) := by
  simp [writeThen, memWrite_fault n v h ha]

end Write

/-! ### ENC (41_encoder.md) -/

/-- ENC has written: its bytes stand in the Sink k, and it returns their number (R79, R83). -/
def encWritten (mt : MajorType) (m : Int) (k : Sink) (s : State) : State :=
  complete (.ok (.count (1 + nTrail m.toNat)))
    (s.setSink ⟨k.bytes ++ encodeBytes (mtCode mt) m.toNat, k.answers.drop (writeAccesses m)⟩)

/-- ENC has met a fault of the Sink k: a drawn number of its bytes, from the first, stands there, and it returns SinkFault
(R80). -/
def encFaulted (mt : MajorType) (m : Int) (k : Sink) (s : State) : State :=
  raise .sinkFault (partialWrite ⟨k.bytes, answersAfterFault k.answers⟩ (encodeBytes (mtCode mt) m.toNat) s)

section Enc

variable {m : Int} {s : State} {k : Sink}

theorem exec_enc_negative (mt : MajorType) (s : State) (h : m < 0) :
    exec (.enc mt m) s = .next (raise (.negativeMagnitude m) s) := if_pos h

theorem exec_enc_direct (mt : MajorType) (s : State) (h0 : 0 ≤ m) (h : m ≤ 23) :
    exec (.enc mt m) s = emitDirect mt m s := by
  rw [exec, execEnc, if_neg (by omega), if_pos h]

/-- The tier with trailing bytes that a magnitude is encoded in (R74 to R77, R83). -/
theorem exec_enc_tier (mt : MajorType) (s : State) (h24 : 24 ≤ m) (hm : m ≤ 2 ^ 64 - 1) :
    exec (.enc mt m) s = emitTier mt (infoOf m.toNat) (nTrail m.toNat) m s := by
  have h23 : ¬ m ≤ 23 := by omega
  rw [exec, execEnc, if_neg (by omega), if_neg h23]
  simp only [infoOf, nTrail, Int.toNat_le, Nat.cast_ofNat, if_neg h23]
  rw [if_pos (show m ≤ 18446744073709551615 by omega)]
  split_ifs <;> rfl

theorem exec_enc_overflow (mt : MajorType) (s : State) (h : m > 2 ^ 64 - 1) :
    exec (.enc mt m) s = .next (raise (.magnitudeOverflow m) s) := by
  rw [exec, execEnc, if_neg (by omega), if_neg (by omega), if_neg (by omega), if_neg (by omega), if_neg (by omega),
    if_neg (by omega)]

theorem writeAccesses_direct (h : m ≤ 23) : writeAccesses m = 1 := if_pos h
theorem writeAccesses_tier (h : 24 ≤ m) : writeAccesses m = 2 := if_neg (by omega)

theorem exec_enc_unbound (mt : MajorType) (hm : inRange m) (hs : s.sink? = none) :
    exec (.enc mt m) s = .refused .unboundSink := by
  rcases le_or_gt m 23 with h | h
  · rw [exec_enc_direct mt s hm.1 h]
    exact writeThen_unbound _ _ hs
  · rw [exec_enc_tier mt s h hm.2]
    exact writeThen_unbound _ _ hs

/-- A Sink that accepts every access of ENC takes the closed form (R73 to R77, R83). -/
theorem exec_enc_accepted (mt : MajorType) (hm : inRange m) (hs : s.sink? = some k)
    (ha : Answer.fault ∉ k.answers.take (writeAccesses m)) :
    exec (.enc mt m) s = .next (encWritten mt m k s) := by
  obtain ⟨h0, hu⟩ := hm
  rcases le_or_gt m 23 with h | h
  · rw [writeAccesses_direct h, fault_mem_take_succ, not_or] at ha
    rw [exec_enc_direct mt s h0 h, emitDirect, writeThen_accept _ _ hs ha.1]
    simp [encWritten, writeAccesses_direct h, encodeBytes_direct _ (Int.toNat_le.mpr h),
      nTrail_direct (Int.toNat_le.mpr h)]
  · rw [writeAccesses_tier h, fault_mem_take_succ, fault_mem_take_succ, not_or, not_or] at ha
    obtain ⟨hfirst, hsecond, -⟩ := ha
    rw [exec_enc_tier mt s h hu, emitTier, writeThen_accept _ _ hs hfirst,
      writeThen_accept _ _ (setSink_sink? _ hs) hsecond]
    have hrest : k.answers.tail.tail = k.answers.drop 2 := by rw [← List.drop_one, List.drop_tail]
    simp [encWritten, writeAccesses_tier h, encodeBytes, hrest]

/-- A fault of the Sink on any access of ENC ends it in one way (R80). -/
theorem exec_enc_faulted (mt : MajorType) (hm : inRange m) (hs : s.sink? = some k)
    (ha : Answer.fault ∈ k.answers.take (writeAccesses m)) :
    exec (.enc mt m) s = .next (encFaulted mt m k s) := by
  obtain ⟨h0, hu⟩ := hm
  rcases le_or_gt m 23 with h | h
  · have hfirst : k.answers.head? = some .fault := by
      simpa [writeAccesses_direct h, fault_mem_take_succ] using ha
    rw [exec_enc_direct mt s h0 h, emitDirect, writeThen_fault _ _ hs hfirst,
      sinkFault_eq _ hs (setSink_sink? _ hs), partialWrite_setSink]
    rw [encFaulted, encodeBytes_direct _ (Int.toNat_le.mpr h), answersAfterFault_of_head hfirst]
  · rw [exec_enc_tier mt s h hu, emitTier]
    by_cases hfirst : k.answers.head? = some .fault
    · rw [writeThen_fault _ _ hs hfirst, sinkFault_eq _ hs (setSink_sink? _ hs), partialWrite_setSink]
      rw [encFaulted, encodeBytes, answersAfterFault_of_head hfirst]
    · have hsecond : k.answers.tail.head? = some .fault := by
        simpa [writeAccesses_tier h, fault_mem_take_succ, hfirst] using ha
      have hbound := setSink_sink? ⟨k.bytes ++ beBytes 1 (headerByte (mtCode mt) (infoOf m.toNat)).toNat, k.answers.tail⟩ hs
      rw [writeThen_accept _ _ hs hfirst, writeThen_fault _ _ hbound hsecond, setSink_setSink,
        sinkFault_eq _ hs (setSink_sink? _ hs), partialWrite_setSink]
      rw [encFaulted, encodeBytes, answersAfterFault_of_tail hfirst, answersAfterFault_of_head hsecond]

/-- Everything ENC can do. -/
theorem exec_enc_cases (mt : MajorType) (m : Int) (s : State) :
    (m < 0 ∧ exec (.enc mt m) s = .next (raise (.negativeMagnitude m) s)) ∨
    (m > 2 ^ 64 - 1 ∧ exec (.enc mt m) s = .next (raise (.magnitudeOverflow m) s)) ∨
    (inRange m ∧ s.sink? = none ∧ exec (.enc mt m) s = .refused .unboundSink) ∨
    (inRange m ∧ ∃ k, s.sink? = some k ∧
      ((Answer.fault ∉ k.answers.take (writeAccesses m) ∧ exec (.enc mt m) s = .next (encWritten mt m k s)) ∨
        (Answer.fault ∈ k.answers.take (writeAccesses m) ∧ exec (.enc mt m) s = .next (encFaulted mt m k s)))) := by
  by_cases h0 : m < 0
  · exact .inl ⟨h0, exec_enc_negative mt s h0⟩
  by_cases hu : m > 2 ^ 64 - 1
  · exact .inr (.inl ⟨hu, exec_enc_overflow mt s hu⟩)
  have hm : inRange m := ⟨Int.not_lt.mp h0, Int.not_lt.mp hu⟩
  rcases hs : s.sink? with _ | k
  · exact .inr (.inr (.inl ⟨hm, rfl, exec_enc_unbound mt hm hs⟩))
  · refine .inr (.inr (.inr ⟨hm, k, rfl, ?_⟩))
    by_cases ha : Answer.fault ∈ k.answers.take (writeAccesses m)
    · exact .inr ⟨ha, exec_enc_faulted mt hm hs ha⟩
    · exact .inl ⟨ha, exec_enc_accepted mt hm hs ha⟩

end Enc

/-- An instruction that ends by `complete` returns its result (R15, R30, R131). -/
theorem Returns.of_complete {i : Instr} {s u : State} {r : Result} (h : exec i s = .next (complete r u))
    (hu : u.inst = s.inst) : Returns i s r (complete r u) :=
  ⟨h, rfl, by rw [complete_inst_results, hu], by rw [complete_inst_k, hu], rfl⟩

/-- ENC of a magnitude in range, on a Sink that accepts, returns the number of the bytes it appends. -/
theorem enc_appends {mt : MajorType} {m : Int} {s : State} (hm : inRange m) (hs : SinkAccepts (writeAccesses m) s) :
    ∃ t, Returns (.enc mt m) s (.ok (.count (1 + nTrail m.toNat))) t ∧
      t.sinkBytes = s.sinkBytes ++ encodeBytes (mtCode mt) m.toNat := by
  obtain ⟨k, hk, ha⟩ := hs
  refine ⟨_, .of_complete (exec_enc_accepted mt hm hk ha) rfl, ?_⟩
  rw [complete_sinkBytes, sinkBytes_of_sink? hk, sinkBytes_of_sink? (setSink_sink? _ hk)]

/-- The same for a magnitude of a tier with trailing bytes, whose info and number of trailing bytes are given. -/
theorem enc_appends_tier {mt : MajorType} {m : Int} {s : State} {info : AdditionalInfo} {n : Nat} (h24 : 24 ≤ m)
    (hm : m ≤ 2 ^ 64 - 1) (ht : infoOf m.toNat = info ∧ nTrail m.toNat = n) (hs : SinkAccepts 2 s) :
    ∃ t, Returns (.enc mt m) s (.ok (.count (1 + n))) t ∧
      t.sinkBytes = s.sinkBytes ++ headerByte (mtCode mt) info ::
        (List.range n).map fun j => BitVec.ofInt 8 (m / 2 ^ (8 * (n - 1 - j))) := by
  obtain ⟨t, hr, hb⟩ := enc_appends (mt := mt) ⟨by omega, hm⟩ (writeAccesses_tier h24 ▸ hs)
  obtain ⟨rfl, rfl⟩ := ht
  exact ⟨t, hr, by rw [hb, encodeBytes, beBytes_toNat (by omega)]⟩

/-! ### The instructions that read a magnitude -/

/-- An info has trailing bytes exactly where it is 24 to 27 (R53). -/
theorem trailingBytes_ne_zero {info : AdditionalInfo} : trailingBytes info ≠ 0 ↔ 24 ≤ info.toNat ∧ info.toNat ≤ 27 := by
  revert info
  decide

/-- Where Phase 2 reads no byte, it fails on a reserved info only (R87, R92, R93). -/
theorem immediate_cases {info : AdditionalInfo} (h : trailingBytes info = 0) :
    (∃ r, immediate info = .got r) ∨
    ((info = 28 ∨ info = 29 ∨ info = 30) ∧ immediate info = .failed (.reservedAdditionalInfo info)) := by
  have reserved : ∀ i : AdditionalInfo, trailingBytes i = 0 → ¬ i.toNat < 24 → i ≠ 31 → i = 28 ∨ i = 29 ∨ i = 30 := by
    decide
  rw [immediate]
  split_ifs with h24 h31
  · exact .inl ⟨_, rfl⟩
  · exact .inl ⟨_, rfl⟩
  · exact .inr ⟨reserved info h h24 h31, rfl⟩

/-- An instruction that reads for an info value is Phase 2 of it, and what Phase 2 ends in is its result. -/
theorem exec_of_readInfo {i : Instr} {info : AdditionalInfo} (h : readInfo i = some info) (s : State) :
    ∃ fin : Phase2 → State → State, exec i s = readMagnitude info s (fun p u => .next (fin p u)) ∧
      ∀ p u, (fin p u).inst.result = some p.result := by
  cases i <;> cases h
  case rdm => exact ⟨endRdm, rfl, fun _ _ => rfl⟩
  all_goals exact ⟨fun p u => yieldHdr (p.hdrYield _) (endRdm p u), rfl, fun _ _ => rfl⟩

/-- RDM and the header-byte rows are all the instructions that read for an info value. -/
theorem eq_rdm_or_isItem {i : Instr} {info : AdditionalInfo} (h : readInfo i = some info) :
    i = .rdm info ∨ isItem i = true := by
  cases i <;> cases h
  case rdm => exact .inl rfl
  all_goals exact .inr rfl

theorem readLength_of_readInfo {i : Instr} {info : AdditionalInfo} (h : readInfo i = some info) :
    readLength i = trailingBytes info := by
  have hi : i ≠ .rdh := by
    rintro rfl
    cases h
  rw [readLength, if_neg hi, h]

/-! ### Results and their causes (60_exceptions.md) -/

/-- Why an instruction issued in s ends with a result: the causes of the rows of R106. -/
inductive Cause (i : Instr) (s : State) : Result → Prop where
  | ok (p : Payload) : Cause i s (.ok p)
  | negative {mt v} : i = .enc mt v → v < 0 → Cause i s (.err (.negativeMagnitude v))
  | overflow {mt v} : i = .enc mt v → v > 2 ^ 64 - 1 → Cause i s (.err (.magnitudeOverflow v))
  | reserved {info} : readInfo i = some info → info = 28 ∨ info = 29 ∨ info = 30 →
      Cause i s (.err (.reservedAdditionalInfo info))
  | sinkFault {mt m} : i = .enc mt m → inRange m → SinkFaults (writeAccesses m) s → Cause i s (.err .sinkFault)
  | rdhFault : i = .rdh → SourceFails 1 s → Cause i s (.err .sourceFault)
  | rdmFault {info} : readInfo i = some info → trailingBytes info ≠ 0 → SourceFails (trailingBytes info) s →
      Cause i s (.err .sourceFault)

theorem exec_enc_caused {mt : MajorType} {m : Int} {s t : State} (h : exec (.enc mt m) s = .next t) :
    ∃ r, t.inst.result = some r ∧ Cause (.enc mt m) s r := by
  rcases exec_enc_cases mt m s with ⟨hm, he⟩ | ⟨hm, he⟩ | ⟨-, -, he⟩ | ⟨hm, k, hk, ⟨-, he⟩ | ⟨ha, he⟩⟩ <;>
    rw [he] at h <;> cases h
  · exact ⟨_, rfl, .negative rfl hm⟩
  · exact ⟨_, rfl, .overflow rfl hm⟩
  · exact ⟨_, rfl, .ok _⟩
  · exact ⟨_, rfl, .sinkFault rfl hm ⟨k, hk, ha⟩⟩

theorem exec_rdh_caused {s t : State} (h : exec .rdh s = .next t) : ∃ r, t.inst.result = some r ∧ Cause .rdh s r := by
  rw [exec, execRdh] at h
  rcases readThen_cases 1 s (fun u => .next (raise .sourceFault (settle u))) (fun v u => .next (endRdh (BitVec.ofNat 8 v) u))
    with ⟨-, he⟩ | ⟨q, hq, ⟨-, -, he⟩ | ⟨hf, he⟩⟩ <;> rw [he] at h <;> cases h
  · exact ⟨_, rfl, .ok _⟩
  · exact ⟨_, rfl, .rdhFault rfl ⟨q, hq, hf⟩⟩

theorem exec_read_caused {i : Instr} {info : AdditionalInfo} {s t : State} (hi : readInfo i = some info)
    (h : exec i s = .next t) : ∃ r, t.inst.result = some r ∧ Cause i s r := by
  obtain ⟨fin, hexec, hport⟩ := exec_of_readInfo hi s
  rw [hexec] at h
  rcases readMagnitude_cases info s (fun p u => .next (fin p u))
    with ⟨hn, he⟩ | ⟨-, -, he⟩ | ⟨hn, q, hq, ⟨-, -, he⟩ | ⟨hf, he⟩⟩ <;> rw [he] at h <;> cases h
  · refine ⟨_, hport _ _, ?_⟩
    rcases immediate_cases hn with ⟨r, hr⟩ | ⟨hres, hr⟩ <;> rw [hr]
    · exact .ok _
    · exact .reserved hi hres
  · exact ⟨_, hport _ _, .ok _⟩
  · exact ⟨_, hport _ _, .rdmFault hi hn ⟨q, hq, hf⟩⟩

/-- Every instruction that goes on leaves a result on the port, and the result has one of the causes of R106. -/
theorem exec_caused {i : Instr} {s t : State} (h : exec i s = .next t) : ∃ r, t.inst.result = some r ∧ Cause i s r := by
  rcases hi : readInfo i with _ | info
  · cases i <;> cases hi
    case none.enc.refl => exact exec_enc_caused h
    case none.dec.refl =>
      cases h
      exact ⟨_, rfl, .ok _⟩
    case none.rdh.refl => exact exec_rdh_caused h
  · exact exec_read_caused hi h

end Sys2Proof.Machine
end

section
/-! PROOFS. The statements on ENC (41_encoder.md), and the status codes with their causes (60_exceptions.md). -/

namespace Sys2Proof.Proofs

open Sys2Proof.Machine

/-- Settles O2 (R73). -/
theorem encDirectTierEmitsOneByte : Obligations.EncDirectTierEmitsOneByte := by
  intro mt m s h0 h hs
  obtain ⟨t, hr, hb⟩ := enc_appends (mt := mt) ⟨h0, by omega⟩ (writeAccesses_direct h ▸ hs)
  rw [nTrail_direct (Int.toNat_le.mpr h)] at hr
  rw [encodeBytes_direct _ (Int.toNat_le.mpr h), headerByte_ofNat _ h0 h] at hb
  exact ⟨t, hr, hb⟩

/-- Settles O3 (R74). -/
theorem encOneByteTierEmitsTwoBytes : Obligations.EncOneByteTierEmitsTwoBytes := by
  intro mt m s hl hu hs
  obtain ⟨t, hr, hb⟩ := enc_appends_tier (mt := mt) hl (by omega) (tier_ai24 (by omega) (by omega)) hs
  exact ⟨t, hr, by simpa [headerByte, List.range_succ] using hb⟩

/-- Settles O4 (R75). -/
theorem encTwoByteTierEmitsThreeBytes : Obligations.EncTwoByteTierEmitsThreeBytes := by
  intro mt m s hl hu hs
  obtain ⟨t, hr, hb⟩ := enc_appends_tier (mt := mt) (m := m) (by omega) (by omega) (tier_ai25 (by omega) (by omega)) hs
  exact ⟨t, hr, by simpa [headerByte, List.range_succ] using hb⟩

/-- Settles O5 (R76). -/
theorem encFourByteTierEmitsFiveBytes : Obligations.EncFourByteTierEmitsFiveBytes := by
  intro mt m s hl hu hs
  obtain ⟨t, hr, hb⟩ := enc_appends_tier (mt := mt) (m := m) (by omega) (by omega) (tier_ai26 (by omega) (by omega)) hs
  exact ⟨t, hr, by simpa [headerByte, List.range_succ] using hb⟩

/-- Settles O6 (R77): the bytes of `m − 2^64` as a 64-bit pattern are those of m. -/
theorem encEightByteTierEmitsNineBytes : Obligations.EncEightByteTierEmitsNineBytes := by
  intro mt m s hl hu hs
  obtain ⟨t, hr, hb⟩ := enc_appends_tier (mt := mt) (m := m) (by omega) hu (tier_ai27 (by omega)) hs
  refine ⟨t, hr, hb, fun _ => ?_⟩
  simp only [extractLsb'_ofInt_sub (show 0 ≤ m by omega) hu]
  exact hb

/-- Settles O8 (R79, R83). -/
theorem encAppendsClosedForm : Obligations.EncAppendsClosedForm := by
  intro mt m s h0 hm hs
  obtain ⟨t, hr, hb⟩ := enc_appends (mt := mt) ⟨h0, hm⟩ hs
  rw [length_encodeBytes]
  refine ⟨t, hr, hb, ?_, by rw [trailingBytes_infoOf]⟩
  rcases tier_cases m.toNat with ⟨-, -, hn⟩ | ⟨-, hn⟩ | ⟨-, hn⟩ | ⟨-, hn⟩ | ⟨-, hn⟩ <;> rw [hn] <;> decide

/-- Settles O10 (R82): the info and the trailing bytes of the closed form are made from the magnitude alone. -/
theorem encMajorTypeOnlySetsTopBits : Obligations.EncMajorTypeOnlySetsTopBits := by
  intro mt mt' m s h0 hm hs
  obtain ⟨t, hr, hb⟩ := enc_appends (mt := mt) ⟨h0, hm⟩ hs
  obtain ⟨t', hr', hb'⟩ := enc_appends (mt := mt') ⟨h0, hm⟩ hs
  exact ⟨t, t', headerByte (mtCode mt) (infoOf m.toNat), headerByte (mtCode mt') (infoOf m.toNat),
    beBytes (nTrail m.toNat) m.toNat, hr.next, hb, headerCode_headerByte _ _, hr'.next, hb', headerCode_headerByte _ _,
    by simp, hr.port.trans hr'.port.symm⟩

/-- Settles O37 (R106). -/
theorem statusCodesAndTheirCauses : Obligations.StatusCodesAndTheirCauses := by
  intro i s t h
  obtain ⟨r, hr, hc⟩ := exec_caused h
  refine ⟨r, hr, by rw [Codec.status, hr, Option.map_some], ?_⟩
  cases hc with
  | ok p => rfl
  | negative hi hv => exact ⟨rfl, hv, _, hi⟩
  | overflow hi hv => exact ⟨rfl, hv, _, hi⟩
  | reserved hi hres => exact ⟨rfl, hres, (eq_rdm_or_isItem hi).imp_right (⟨·, hi⟩)⟩
  | sinkFault hi hm hs => exact ⟨rfl, _, _, hi, hm.1, hm.2, hs⟩
  | rdhFault hi hs =>
    subst hi
    exact ⟨rfl, hs, .inl rfl⟩
  | rdmFault hi hn hs =>
    exact ⟨rfl, readLength_of_readInfo hi ▸ hs, .inr ⟨_, hi, trailingBytes_ne_zero.mp hn⟩⟩

/-- Settles O1 (R72). -/
theorem encNegativeWritesNothing : Obligations.EncNegativeWritesNothing := fun mt _ s hm =>
  ⟨_, .of_complete (exec_enc_negative mt s hm) rfl, rfl⟩

/-- Settles O7 (R78). -/
theorem encOverflowWritesNothing : Obligations.EncOverflowWritesNothing := by
  constructor
  · intro mt m s hm
    exact ⟨_, .of_complete (exec_enc_overflow mt s hm) rfl, rfl⟩
  · intro mt s hs
    obtain ⟨t, hr, -⟩ := enc_appends_tier (mt := mt) (m := 2 ^ 64 - 1) (by decide) le_rfl (tier_ai27 (by decide)) hs
    exact ⟨t, hr⟩

end Sys2Proof.Proofs
end

section
/-! SUPPORT. The value of a trailing field, what a read of an open Source gives, and what RDM returns, each said once. -/

namespace Sys2Proof.Machine

/-! ### The value of big-endian bytes (R12) -/

@[simp] theorem beVal_singleton (b : Byte) : beVal [b] = b.toNat := by simp [beVal]

theorem beVal_lt (bs : List Byte) : beVal bs < 2 ^ (8 * bs.length) := by
  induction bs with
  | nil => exact Nat.one_pos
  | cons b bs ih =>
    calc b.toNat * 2 ^ (8 * bs.length) + beVal bs
        < (b.toNat + 1) * 2 ^ (8 * bs.length) := by rw [Nat.add_one_mul b.toNat]; exact Nat.add_lt_add_left ih _
      _ ≤ 2 ^ 8 * 2 ^ (8 * bs.length) := Nat.mul_le_mul_right _ b.isLt
      _ = 2 ^ (8 * (b :: bs).length) := by rw [← Nat.pow_add, List.length_cons, Nat.mul_succ, Nat.add_comm]

/-- The n bytes of v keep its low 8n bits. -/
theorem beVal_beBytes (n v : Nat) : beVal (beBytes n v) = v % 2 ^ (8 * n) := by
  induction n with
  | zero => exact (Nat.mod_one v).symm
  | succ n ih =>
    rw [beBytes, beVal, ih, length_beBytes, BitVec.toNat_ofNat, Nat.mul_succ, Nat.pow_add, Nat.mod_mul]
    ring

/-- A field of at most eight bytes is zero-extended: the magnitude is its value (R88 to R91). -/
theorem toNat_ofNat_beVal {bs : List Byte} (h : bs.length ≤ 8) : (BitVec.ofNat 64 (beVal bs)).toNat = beVal bs := by
  rw [BitVec.toNat_ofNat]
  exact Nat.mod_eq_of_lt ((beVal_lt bs).trans_le (Nat.pow_le_pow_right (by decide) (by omega)))

/-- The bytes of an 8-byte pattern, most significant first, are those of its unsigned reading (R91). -/
theorem extractLsb'_bytes (p : BitVec 64) :
    (List.range 8).map (fun j => p.extractLsb' (8 * (7 - j)) 8) = beBytes 8 p.toNat := by
  simp [List.range_succ, beBytes, BitVec.extractLsb', Nat.shiftRight_eq_div_pow]

theorem beVal_extractLsb'_bytes (p : BitVec 64) :
    beVal ((List.range 8).map fun j => p.extractLsb' (8 * (7 - j)) 8) = p.toNat := by
  rw [extractLsb'_bytes, beVal_beBytes]
  exact Nat.mod_eq_of_lt p.isLt

/-! ### Reading from an open Source -/

theorem sourceBytes_of_source? {s : State} {q : Source} (h : s.source? = some q) : s.sourceBytes = q.bytes := by
  simp [State.sourceBytes, h]

@[simp] theorem endRdm_sourceBytes (p : Phase2) (s : State) : (endRdm p s).sourceBytes = s.sourceBytes := rfl

/-- A read of the bytes at the front of an open Source goes on with their value, and the bytes behind them are left (R36). -/
theorem readThen_front {s : State} {bs rest : List Byte} (ho : SourceOpen 1 s) (hb : s.sourceBytes = bs ++ rest) :
    ∃ q, (s.setSource q).sourceBytes = rest ∧
      ∀ fault next, readThen bs.length s fault next = next (beVal bs) (s.setSource q) := by
  obtain ⟨q, hq, ha⟩ := ho
  rw [fault_mem_take_succ, not_or] at ha
  rw [sourceBytes_of_source? hq] at hb
  have hlen : bs.length ≤ q.bytes.length := by simp [hb]
  refine ⟨⟨q.bytes.drop bs.length, q.answers.tail⟩, ?_, fun fault next => ?_⟩
  · simp [sourceBytes_of_source? (setSource_source? _ hq), hb]
  · simp [readThen, memRead_yield hq ha.1 hlen, hb]

/-- Phase 2 of an info with a trailing field, on an open Source that holds the field (R88 to R91). -/
theorem readMagnitude_field {s : State} {info : AdditionalInfo} {bs rest : List Byte} (hn : trailingBytes info ≠ 0)
    (hl : trailingBytes info = bs.length) (ho : SourceOpen 1 s) (hb : s.sourceBytes = bs ++ rest) :
    ∃ q, (s.setSource q).sourceBytes = rest ∧
      ∀ fin, readMagnitude info s fin = fin (.got (.mag (BitVec.ofNat 64 (beVal bs)))) (s.setSource q) := by
  obtain ⟨q, hrest, hread⟩ := readThen_front ho hb
  refine ⟨q, hrest, fun fin => ?_⟩
  rw [readMagnitude_eq, if_neg hn, readField, hl, hread]

/-! ### RDM (42_decoder.md) -/

theorem trailingBytes_direct {info : AdditionalInfo} (h : info.toNat < 24) : trailingBytes info = 0 := by
  by_contra hn
  exact absurd (trailingBytes_ne_zero.mp hn).1 (by omega)

theorem immediate_direct {info : AdditionalInfo} (h : info.toNat < 24) :
    immediate info = .got (.mag (info.setWidth 64)) := if_pos h

/-- RDM of an info with no trailing field returns at once, and reads nothing (R87, R92, R93). -/
theorem rdm_immediate {info : AdditionalInfo} (h : trailingBytes info = 0) (s : State) :
    ∃ t, Returns (.rdm info) s (immediate info).result t ∧ t.sources = s.sources := by
  refine ⟨_, .of_complete (u := settle s) ?_ rfl, rfl⟩
  rw [exec, execRdm, readMagnitude_eq, if_pos h, endRdm]

/-- RDM of an info with a trailing field returns the field's value, and the field is consumed (R88 to R91). -/
theorem rdm_reads_field {s : State} {info : AdditionalInfo} {bs rest : List Byte} (hn : trailingBytes info ≠ 0)
    (hl : trailingBytes info = bs.length) (ho : SourceOpen 1 s) (hb : s.sourceBytes = bs ++ rest) :
    ∃ t, Returns (.rdm info) s (.ok (.resolved (.mag (BitVec.ofNat 64 (beVal bs))))) t ∧ t.sourceBytes = rest := by
  obtain ⟨q, hrest, hread⟩ := readMagnitude_field hn hl ho hb
  refine ⟨_, .of_complete (u := settle (s.setSource q)) ?_ rfl, hrest⟩
  rw [exec, execRdm, hread, endRdm, Phase2.result]

/-! ### The two readings of an 8-byte pattern (R91) -/

theorem toNat_of_toInt_nonneg {p : BitVec 64} (h : p.toInt ≥ 0) : (p.toNat : Int) = p.toInt := by
  rw [BitVec.toInt_eq_toNat_cond] at *
  split at * <;> omega

theorem toNat_of_toInt_neg {p : BitVec 64} (h : p.toInt < 0) :
    (p.toNat : Int) = p.toInt + 2 ^ 64 ∧ 2 ^ 63 ≤ p.toNat ∧ p.toNat ≤ 2 ^ 64 - 1 := by
  rw [BitVec.toInt_eq_toNat_cond] at *
  split at * <;> omega

end Sys2Proof.Machine
end

section
/-! PROOFS. The statements on DEC and RDM (42_decoder.md). -/

namespace Sys2Proof.Proofs

open Sys2Proof.Machine

/-- Settles O18 (R88). -/
theorem rdmReadsOneByte : Obligations.RdmReadsOneByte := by
  intro s b0 rest ho hb
  obtain ⟨t, hr, ht⟩ := rdm_reads_field (info := 24) (bs := [b0]) (by decide) rfl ho hb
  rw [beVal_singleton, BitVec.ofNat_toNat] at hr
  exact ⟨t, hr, ht⟩

/-- Settles O19 (R89). -/
theorem rdmReadsTwoBytes : Obligations.RdmReadsTwoBytes := by
  intro s b0 b1 rest ho hb
  obtain ⟨t, hr, ht⟩ := rdm_reads_field (info := 25) (bs := [b0, b1]) (by decide) rfl ho hb
  refine ⟨t, _, hr, ?_, ht⟩
  rw [toNat_ofNat_beVal (by simp)]
  simp [beVal]

/-- Settles O20 (R90): the bounds are those of the value of four bytes. -/
theorem rdmReadsFourBytes : Obligations.RdmReadsFourBytes := by
  intro s b0 b1 b2 b3 rest ho hb
  obtain ⟨t, hr, ht⟩ := rdm_reads_field (info := 26) (bs := [b0, b1, b2, b3]) (by decide) rfl ho hb
  have hval : (BitVec.ofNat 64 (beVal [b0, b1, b2, b3])).toNat =
      b0.toNat * 2 ^ 24 + b1.toNat * 2 ^ 16 + b2.toNat * 2 ^ 8 + b3.toNat := by
    rw [toNat_ofNat_beVal (by simp)]
    simp [beVal, Nat.add_assoc]
  refine ⟨t, _, hr, hval, ?_, ?_, ht⟩ <;> omega

/-- Settles O21 (R91): the field's value is the unsigned reading of the pattern. -/
theorem rdmReadsEightBytesUnsigned : Obligations.RdmReadsEightBytesUnsigned := by
  intro s p rest ho hb
  obtain ⟨t, hr, ht⟩ := rdm_reads_field (info := 27) (by decide) rfl ho hb
  rw [beVal_extractLsb'_bytes, BitVec.ofNat_toNat, BitVec.setWidth_eq] at hr
  exact ⟨t, hr, ht, toNat_of_toInt_nonneg, toNat_of_toInt_neg⟩

/-- Settles O14 (R84). -/
theorem decSplitsHeaderByte : Obligations.DecSplitsHeaderByte := fun _ s =>
  ⟨_, .of_complete (u := s) rfl rfl, rfl, rfl⟩

/-- Settles O17 (R87). -/
theorem rdmDirectInfoIsTheMagnitude : Obligations.RdmDirectInfoIsTheMagnitude := by
  intro info s h
  have ht := rdm_immediate (trailingBytes_direct h) s
  rwa [immediate_direct h] at ht

/-- Settles O23 (R93). -/
theorem rdmReturnsIndefinite : Obligations.RdmReturnsIndefinite := fun s => rdm_immediate (info := 31) (by decide) s

end Sys2Proof.Proofs
end

section
/-! SUPPORT. The major-type table, the header byte, and the rows of the decoder, each read back from what the encoder writes. -/

namespace Sys2Proof

open Machine

/-! ### The major-type table (R70) and the header byte (R52, R54) -/

@[simp] theorem mtOfCode_mtCode (t : MajorType) : mtOfCode (mtCode t) = t := by cases t <;> rfl

@[simp] theorem mtCode_mtOfCode (c : MtCode) : mtCode (mtOfCode c) = c := by
  revert c
  decide

@[simp] theorem headerByte_fields (hb : Byte) : headerByte (headerCode hb) (headerInfo hb) = hb := by
  revert hb
  decide

@[simp] theorem splitHeader_headerByte (mt : MajorType) (info : AdditionalInfo) :
    splitHeader (headerByte (mtCode mt) info) = ⟨mt, info⟩ := by
  simp [splitHeader]

@[simp] theorem headerByte_splitHeader (hb : Byte) :
    headerByte (mtCode (splitHeader hb).mt) (splitHeader hb).info = hb := by
  simp [splitHeader]

/-! ### The rows of header bytes (R53, R60) -/

/-- The major type and the info that a header-byte row carries. -/
def itemHeader : Instr → Option Phase1
  | .enc _ _ => none
  | .dec _ => none
  | .rdm _ => none
  | .rdh => none
  | .hdrDirect0To15 mt info => some ⟨mt, info⟩
  | .hdrDirect16To23 mt info => some ⟨mt, info⟩
  | .hdrAi24 mt => some ⟨mt, 24⟩
  | .hdrAi25 mt => some ⟨mt, 25⟩
  | .hdrAi26 mt => some ⟨mt, 26⟩
  | .hdrAi27 mt => some ⟨mt, 27⟩
  | .hdrAi28 mt => some ⟨mt, 28⟩
  | .hdrAi29 mt => some ⟨mt, 29⟩
  | .hdrAi30 mt => some ⟨mt, 30⟩
  | .hdrAi31 mt => some ⟨mt, 31⟩

/-- The row that a split header byte belongs to is well formed and carries what was split (R60). -/
theorem headerInstr_row (p : Phase1) :
    itemHeader (headerInstr p) = some p ∧ (headerInstr p).wellFormed = true := by
  obtain ⟨mt, info⟩ := p
  cases mt <;> revert info <;> decide

@[simp] theorem itemHeader_headerInstr (p : Phase1) : itemHeader (headerInstr p) = some p := (headerInstr_row p).1
@[simp] theorem headerInstr_wellFormed (p : Phase1) : (headerInstr p).wellFormed = true := (headerInstr_row p).2

section Item

variable {i : Instr} {p : Phase1}

theorem isItem_iff : isItem i = true ↔ ∃ p, itemHeader i = some p := by cases i <;> simp [isItem, itemHeader]

theorem readInfo_of_itemHeader (h : itemHeader i = some p) : readInfo i = some p.info := by cases i <;> cases h <;> rfl

theorem encode_of_itemHeader (h : itemHeader i = some p) : encode i = .hdr8 (headerByte (mtCode p.mt) p.info) := by
  cases i <;> cases h <;> rfl

theorem exec_of_itemHeader (h : itemHeader i = some p) (s : State) : exec i s = runItem p.mt p.info s := by
  cases i <;> cases h <;> rfl

theorem usesSource_of_readInfo {info : AdditionalInfo} (h : readInfo i = some info) : usesSource i = true := by
  rw [usesSource, h, Option.isSome_some, Bool.or_true]

theorem usesSink_of_itemHeader (h : itemHeader i = some p) : usesSink i = false := by cases i <;> cases h <;> rfl

/-- A well-formed header-byte row is the one that its major type and info belong to. -/
theorem headerInstr_of_itemHeader (h : itemHeader i = some p) (hw : i.wellFormed = true) : headerInstr p = i := by
  cases i <;> cases h
  case hdrDirect0To15 => exact if_pos (by simpa [Instr.wellFormed] using hw)
  case hdrDirect16To23 mt info =>
    obtain ⟨hl, hu⟩ : 16 ≤ info.toNat ∧ info.toNat ≤ 23 := by simpa [Instr.wellFormed] using hw
    exact (if_neg (by simp only; omega)).trans (if_pos hu)
  all_goals rfl

end Item

/-! ### The rows of command words (R61, R62) -/

/-- The op code of a command word, its two top bits. -/
abbrev opCode (w : CommandWord) : BitVec 2 := w.extractLsb' 14 2

/-- The mask of an op code's row (R62). -/
abbrev opMask (op : BitVec 2) : CommandWord :=
  if op = 0 then 0xC7FF#16 else if op = 1 then 0xFF00#16 else if op = 2 then 0xFFE0#16 else 0xFFFF#16

/-- The match of an op code's row (R62). -/
abbrev opMatch (op : BitVec 2) : CommandWord :=
  if op = 0 then 0x0000#16 else if op = 1 then 0x4000#16 else if op = 2 then 0x8000#16 else 0xC000#16

/-- A word that matches under a mask with both top bits has the op code of the match. -/
theorem opCode_of_masked {w mask fixed : CommandWord} (h : w &&& mask = fixed) (hm : opCode mask = 3#2) :
    opCode w = opCode fixed := by
  have hop : opCode w &&& opCode mask = opCode fixed := by rw [← h, opCode, opCode, opCode, BitVec.extractLsb'_and]
  rw [hm] at hop
  have keep : ∀ a : BitVec 2, a &&& 3#2 = a := by decide
  rwa [keep] at hop

/-- What a command word decodes to (R61): one of the four rows, where it carries the row's match. -/
inductive CommandRow (w : CommandWord) (mag : Int) : Instr → Prop where
  | enc : w &&& 0xC7FF#16 = 0x0000#16 → CommandRow w mag (.enc (mtOfCode (w.extractLsb' 11 3)) mag)
  | dec : w &&& 0xFF00#16 = 0x4000#16 → CommandRow w mag (.dec (w.extractLsb' 0 8))
  | rdm : w &&& 0xFFE0#16 = 0x8000#16 → CommandRow w mag (.rdm (w.extractLsb' 0 5))
  | rdh : w &&& 0xFFFF#16 = 0xC000#16 → CommandRow w mag .rdh

theorem CommandRow.masked {w : CommandWord} {mag : Int} {i : Instr} (h : CommandRow w mag i) :
    w &&& opMask (opCode w) = opMatch (opCode w) := by
  cases h with
  | enc h => rwa [opCode_of_masked h (by decide)]
  | dec h => rwa [opCode_of_masked h (by decide)]
  | rdm h => rwa [opCode_of_masked h (by decide)]
  | rdh h => rwa [opCode_of_masked h (by decide)]

theorem CommandRow.of_decode {w : CommandWord} {mag : Int} {i : Instr} (h : decodeCommand w mag = .ok i) :
    CommandRow w mag i := by
  unfold decodeCommand at h
  split_ifs at h with h0 h1 h2 h3 <;> cases h
  · exact .enc h0
  · exact .dec h1
  · exact .rdm h2
  · exact .rdh h3

/-- The decoder takes a word that carries a row's match to that row's instruction: the op code tells the rows apart. -/
theorem CommandRow.decode {w : CommandWord} {mag : Int} {i : Instr} (h : CommandRow w mag i) :
    decodeCommand w mag = .ok i := by
  have apart : ∀ {mask fixed : CommandWord}, opCode mask = 3#2 → opCode w ≠ opCode fixed → w &&& mask ≠ fixed :=
    fun hm hne h' => hne (opCode_of_masked h' hm)
  unfold decodeCommand
  cases h with
  | enc h => exact if_pos h
  | dec h =>
    have hop := opCode_of_masked h (by decide)
    rw [if_neg (apart (by decide) (by rw [hop]; decide)), if_pos h]
  | rdm h =>
    have hop := opCode_of_masked h (by decide)
    rw [if_neg (apart (by decide) (by rw [hop]; decide)), if_neg (apart (by decide) (by rw [hop]; decide)), if_pos h]
  | rdh h =>
    have hop := opCode_of_masked h (by decide)
    rw [if_neg (apart (by decide) (by rw [hop]; decide)), if_neg (apart (by decide) (by rw [hop]; decide)),
      if_neg (apart (by decide) (by rw [hop]; decide)), if_pos h]

/-- A word that decodes to nothing is rejected by name (R62). -/
theorem decodeCommand_of_not_ok {w : CommandWord} {mag : Int} (h : ∀ i, decodeCommand w mag ≠ .ok i) :
    decodeCommand w mag = .error (.mustBeZero w) := by
  unfold decodeCommand at h ⊢
  split_ifs at h ⊢
  · exact absurd rfl (h _)
  · exact absurd rfl (h _)
  · exact absurd rfl (h _)
  · exact absurd rfl (h _)
  · rfl

/-- A word that carries its op code's match is of one of the four rows. -/
theorem exists_commandRow {w : CommandWord} (mag : Int) (h : w &&& opMask (opCode w) = opMatch (opCode w)) :
    ∃ i, CommandRow w mag i := by
  have ops : ∀ op : BitVec 2, op = 0 ∨ op = 1 ∨ op = 2 ∨ op = 3 := by decide
  rcases ops (opCode w) with hop | hop | hop | hop <;> rw [hop] at h
  · exact ⟨_, .enc h⟩
  · exact ⟨_, .dec h⟩
  · exact ⟨_, .rdm h⟩
  · exact ⟨_, .rdh h⟩

theorem CommandRow.wellFormed {w : CommandWord} {mag : Int} {i : Instr} (h : CommandRow w mag i) :
    i.wellFormed = true := by cases h <;> rfl

/-! ### The operand fields of the rows, put back in their places -/

theorem field_enc (w : CommandWord) : (w.extractLsb' 11 3).setWidth 16 <<< 11 = w &&& ~~~0xC7FF#16 := by
  apply BitVec.eq_of_getLsbD_eq
  intro j hj
  interval_cases j <;> simp

theorem field_dec (w : CommandWord) : (w.extractLsb' 0 8).setWidth 16 = w &&& ~~~0xFF00#16 := by
  apply BitVec.eq_of_getLsbD_eq
  intro j hj
  interval_cases j <;> simp

theorem field_rdm (w : CommandWord) : (w.extractLsb' 0 5).setWidth 16 = w &&& ~~~0xFFE0#16 := by
  apply BitVec.eq_of_getLsbD_eq
  intro j hj
  interval_cases j <;> simp

/-- A word is its bits under a mask and its bits beside it. -/
theorem masked_or_rest (w mask : CommandWord) : (w &&& mask) ||| (w &&& ~~~mask) = w := by
  ext j hj
  simp only [BitVec.getElem_or, BitVec.getElem_and, BitVec.getElem_not]
  cases w[j] <;> cases mask[j] <;> rfl

/-- Encoding puts the row's match and the operand fields together: that is the word, since each row's fields are what its mask
leaves free. -/
theorem CommandRow.encode {w : CommandWord} {mag : Int} {i : Instr} (h : CommandRow w mag i) :
    encode i = .cmd16 w (if usesSink i then mag else 0) := by
  cases h with
  | enc h =>
    have hw := masked_or_rest w 0xC7FF#16
    rw [h, BitVec.zero_or] at hw
    rw [Sys2Proof.encode, mtCode_mtOfCode, field_enc, hw]
    rfl
  | dec h =>
    have hw := masked_or_rest w 0xFF00#16
    rw [h] at hw
    rw [Sys2Proof.encode, field_dec, hw]
    rfl
  | rdm h =>
    have hw := masked_or_rest w 0xFFE0#16
    rw [h] at hw
    rw [Sys2Proof.encode, field_rdm, hw]
    rfl
  | rdh h =>
    rw [show (0xFFFF#16 : CommandWord) = BitVec.allOnes 16 from rfl, BitVec.and_allOnes] at h
    rw [h]
    rfl

/-- The word of an instruction that is not a header-byte row decodes to it. -/
theorem decodeCommand_encode {i : Instr} {w : CommandWord} {mag : Int} (h : encode i = .cmd16 w mag) :
    decodeCommand w mag = .ok i := by
  cases i <;> cases h
  case enc mt =>
    have row : ∀ c : MtCode, (c.setWidth 16 <<< 11) &&& 0xC7FF#16 = 0x0000#16 := by decide
    have field : ∀ c : MtCode, (c.setWidth 16 <<< 11).extractLsb' 11 3 = c := by decide
    simpa only [field, mtOfCode_mtCode] using (CommandRow.enc (mag := mag) (row (mtCode mt))).decode
  case dec hb =>
    have row : ∀ hb : Byte, (0x4000#16 ||| hb.setWidth 16) &&& 0xFF00#16 = 0x4000#16 := by decide
    have field : ∀ hb : Byte, (0x4000#16 ||| hb.setWidth 16).extractLsb' 0 8 = hb := by decide
    simpa only [field] using (CommandRow.dec (mag := 0) (row hb)).decode
  case rdm info =>
    have row : ∀ info : AdditionalInfo, (0x8000#16 ||| info.setWidth 16) &&& 0xFFE0#16 = 0x8000#16 := by decide
    have field : ∀ info : AdditionalInfo, (0x8000#16 ||| info.setWidth 16).extractLsb' 0 5 = info := by decide
    simpa only [field] using (CommandRow.rdm (mag := 0) (row info)).decode
  case rdh => rfl

/-- The header byte of a well-formed header-byte row decodes to it. -/
theorem decodeHeader_encode {i : Instr} {hb : Byte} (hw : i.wellFormed = true) (h : encode i = .hdr8 hb) :
    decodeHeader hb = i := by
  obtain ⟨p, hi⟩ : ∃ p, itemHeader i = some p := by cases i <;> cases h <;> exact ⟨_, rfl⟩
  rw [encode_of_itemHeader hi] at h
  cases h
  rw [decodeHeader, splitHeader_headerByte, headerInstr_of_itemHeader hi hw]

/-! ### Big-endian bytes (R12, R34) -/

/-- The n bytes of a number do not depend on what it holds above them. -/
theorem beBytes_add_mul {n m : Nat} (a v : Nat) (h : n ≤ m) : beBytes n (a * 2 ^ (8 * m) + v) = beBytes n v := by
  induction n with
  | zero => rfl
  | succ n ih =>
    obtain ⟨d, rfl⟩ := Nat.exists_eq_add_of_le h
    have hbyte : (a * 2 ^ (8 * (n + 1 + d)) + v) / 2 ^ (8 * n) = v / 2 ^ (8 * n) + 2 ^ 8 * (a * 2 ^ (8 * d)) := by
      rw [← Nat.add_mul_div_left _ _ (Nat.two_pow_pos (8 * n))]
      congr 1
      ring
    rw [beBytes, beBytes, ih (by omega), hbyte]
    congr 1
    apply BitVec.eq_of_toNat_eq
    rw [BitVec.toNat_ofNat, BitVec.toNat_ofNat, Nat.add_mul_mod_self_left]

theorem beBytes_beVal (bs : List Byte) : beBytes bs.length (beVal bs) = bs := by
  induction bs with
  | nil => rfl
  | cons b bs ih =>
    have hb : (b.toNat * 2 ^ (8 * bs.length) + beVal bs) / 2 ^ (8 * bs.length) = b.toNat := by
      rw [Nat.mul_comm, Nat.mul_add_div (Nat.two_pow_pos _), Nat.div_eq_of_lt (beVal_lt bs), Nat.add_zero]
    rw [List.length_cons, beBytes, beVal, hb, beBytes_add_mul _ _ le_rfl, ih, BitVec.ofNat_toNat, BitVec.setWidth_eq]

end Sys2Proof
end

section
/-! PROOFS. The statements on the encodings (30_encoding.md, 40_majortype.md). -/

namespace Sys2Proof.Proofs

open Sys2Proof.Machine

/-- Settles O41: a command by its word, a header-byte row by its byte. -/
theorem decodeOfEncode : Obligations.DecodeOfEncode := by
  intro i hw
  rcases h : encode i with ⟨w, mag⟩ | hb
  · exact decodeCommand_encode h
  · exact congrArg Except.ok (decodeHeader_encode hw h)

/-- Settles O42. -/
theorem encodeOfDecode : Obligations.EncodeOfDecode := by
  constructor
  · intro w mag i h
    have hrow := CommandRow.of_decode h
    exact ⟨hrow.wellFormed, hrow.encode⟩
  · intro hb
    have hrow := itemHeader_headerInstr (splitHeader hb)
    exact ⟨_, rfl, headerInstr_wellFormed _, isItem_iff.mpr ⟨_, hrow⟩, by
      rw [decodeHeader, encode_of_itemHeader hrow, headerByte_splitHeader]⟩

/-- Settles O44 (R12, R34). -/
theorem bigEndianBytesRoundTrip : Obligations.BigEndianBytesRoundTrip := fun n v =>
  ⟨length_beBytes n v, fun hv => (beVal_beBytes n v).trans (Nat.mod_eq_of_lt hv), fun bs => ⟨beVal_lt bs, beBytes_beVal bs⟩⟩

/-- Settles O38 (R70). -/
theorem majorTypeTableIsBijective : Obligations.MajorTypeTableIsBijective := ⟨mtOfCode_mtCode, mtCode_mtOfCode⟩

/-- Settles O39 (R52, R54). -/
theorem headerByteFieldsRoundTrip : Obligations.HeaderByteFieldsRoundTrip :=
  ⟨fun c i => ⟨headerCode_headerByte c i, headerInfo_headerByte c i⟩, headerByte_fields⟩

/-- Settles O43: each word is evaluated by the decoder. -/
theorem spelledWordsDecode : Obligations.SpelledWordsDecode := by
  unfold Obligations.SpelledWordsDecode
  decide

end Sys2Proof.Proofs
end

section
/-! SUPPORT. What an instruction does, in two parts: a touch of one stream, and the end that returns its result. Both are fixed
by the instruction and the stream it uses; every frame and invariant is derived from that. -/

namespace Sys2Proof.Machine

/-! ### The touch of a stream -/

/-- What an instruction does to the stream it is bound to. -/
inductive Touch where
  /-- It makes no access. -/
  | none
  /-- The bound Sink is now this one. -/
  | write (k : Sink)
  /-- The Sink has faulted: a drawn number of these bytes stands behind what it held. -/
  | writeSome (k : Sink) (bs : List Byte)
  /-- The bound Source is now this one. -/
  | read (q : Source)
  /-- The read has failed: a drawn number of bytes, at most n, has left the Source. -/
  | readSome (q : Source) (n : Nat)

/-- The state after the touch. -/
def Touch.run : Touch → State → State
  | .none, s => s
  | .write k, s => s.setSink k
  | .writeSome k bs, s => partialWrite k bs s
  | .read q, s => s.setSource q
  | .readSome q n, s => partialRead q n s

/-- The touches that are an instruction's own: of a stream it uses, with its bytes or its number of bytes (R38). -/
def Touch.Fits (i : Instr) (s : State) : Touch → Prop
  | .none => True
  | .write k' => usesSink i = true ∧ ∃ k, s.sink? = some k ∧ k'.bytes = k.bytes ++ writeBytes i
  | .writeSome k' bs => usesSink i = true ∧ bs = writeBytes i ∧ ∃ k, s.sink? = some k ∧ k'.bytes = k.bytes
  | .read q' => usesSource i = true ∧
      ∃ q, s.source? = some q ∧ readLength i ≤ q.bytes.length ∧ q'.bytes = q.bytes.drop (readLength i)
  | .readSome q' n => usesSource i = true ∧ n = readLength i ∧ ∃ q, s.source? = some q ∧ q'.bytes = q.bytes

/-! ### The end of an instruction -/

/-- The errors that Phase 2 ends in are the two it can raise (R92, R97). -/
def Phase2.legal (p : Phase2) : Prop := ∀ mt, (p.hdrYield mt).legal

/-- How an instruction ends. -/
inductive Ending where
  /-- ENC and DEC return their result. -/
  | returned (r : Result)
  /-- RDH has met a read that failed. -/
  | rdhFailed
  /-- RDH has its header byte. -/
  | rdhSplit (hb : Byte)
  /-- RDM ends with what Phase 2 ended in. -/
  | rdm (p : Phase2)
  /-- A header-byte row ends, and its HDR yields. -/
  | item (mt : MajorType) (p : Phase2)

/-- The result that the end returns. -/
def Ending.result : Ending → Result
  | .returned r => r
  | .rdhFailed => .err .sourceFault
  | .rdhSplit hb => .ok (.phase1 (splitHeader hb))
  | .rdm p => p.result
  | .item _ p => p.result

/-- What an HDR yields at the end. -/
def Ending.yields : Ending → List HdrYield
  | .returned _ => []
  | .rdhFailed => []
  | .rdhSplit _ => []
  | .rdm _ => []
  | .item mt p => [p.hdrYield mt]

/-- The state after the end. -/
def Ending.run : Ending → State → State
  | .returned r, s => complete r s
  | .rdhFailed, s => raise .sourceFault (settle s)
  | .rdhSplit hb, s => endRdh hb s
  | .rdm p, s => endRdm p s
  | .item mt p, s => yieldHdr (p.hdrYield mt) (endRdm p s)

/-- The ends that are an instruction's own. -/
def Ending.Fits (i : Instr) : Ending → Prop
  | .returned r => usesSource i = false ∧ r.legal
  | .rdhFailed => i = .rdh
  | .rdhSplit _ => i = .rdh
  | .rdm p => (∃ info, i = .rdm info) ∧ p.legal
  | .item _ p => isItem i = true ∧ p.legal

/-! ### Every instruction is a touch and an end -/

/-- Two states in which an instruction finds the same stream. -/
def SameStreams (i : Instr) (s s' : State) : Prop :=
  (usesSink i = true → s'.sink? = s.sink?) ∧ (usesSource i = true → s'.source? = s.source?)

theorem SameStreams.refl (i : Instr) (s : State) : SameStreams i s s := ⟨fun _ => rfl, fun _ => rfl⟩

theorem SameStreams.of_eq {i : Instr} {s s' : State} (hsink : s'.sink? = s.sink?) (hsource : s'.source? = s.source?) :
    SameStreams i s s' := ⟨fun _ => hsink, fun _ => hsource⟩

/-- An instruction is refused, for the want of its stream, or is one touch and one end, and its stream alone says which. -/
def Planned (i : Instr) (s : State) : Prop :=
  (∃ r, (usesSink i = true ∧ s.sink? = none ∨ readLength i ≠ 0 ∧ s.source? = none) ∧
    ∀ s', SameStreams i s s' → exec i s' = .refused r) ∨
  ∃ (c : Touch) (e : Ending), c.Fits i s ∧ e.Fits i ∧ ∀ s', SameStreams i s s' → exec i s' = .next (e.run (c.run s'))

theorem count_legal (m : Nat) : Result.legal (.ok (.count (1 + nTrail m))) := by
  rcases tier_cases m with ⟨-, -, hn⟩ | ⟨-, hn⟩ | ⟨-, hn⟩ | ⟨-, hn⟩ | ⟨-, hn⟩ <;> rw [hn] <;>
    simp only [Result.legal] <;> decide

theorem planned_enc (mt : MajorType) (m : Int) (s : State) : Planned (.enc mt m) s := by
  rcases exec_enc_cases mt m s with ⟨hm, -⟩ | ⟨hm, -⟩ | ⟨hm, hs, -⟩ | ⟨hm, k, hs, ⟨ha, -⟩ | ⟨ha, -⟩⟩
  · exact .inr ⟨.none, .returned (.err (.negativeMagnitude m)), trivial, ⟨rfl, hm⟩, fun s' _ => exec_enc_negative mt s' hm⟩
  · exact .inr ⟨.none, .returned (.err (.magnitudeOverflow m)), trivial, ⟨rfl, hm⟩, fun s' _ => exec_enc_overflow mt s' hm⟩
  · exact .inl ⟨_, .inl ⟨rfl, hs⟩, fun s' h => exec_enc_unbound mt hm ((h.1 rfl).trans hs)⟩
  · refine .inr ⟨.write _, .returned _, ⟨rfl, k, hs, ?_⟩, ⟨rfl, count_legal m.toNat⟩,
      fun s' h => exec_enc_accepted mt hm ((h.1 rfl).trans hs) ha⟩
    rw [writeBytes, if_pos hm]
  · refine .inr ⟨.writeSome ⟨k.bytes, answersAfterFault k.answers⟩ (encodeBytes (mtCode mt) m.toNat),
      .returned (.err .sinkFault), ⟨rfl, ?_, k, hs, rfl⟩, ⟨rfl, trivial⟩,
      fun s' h => exec_enc_faulted mt hm ((h.1 rfl).trans hs) ha⟩
    rw [writeBytes, if_pos hm]

theorem planned_rdh (s : State) : Planned .rdh s := by
  rcases hs : s.source? with _ | q
  · refine .inl ⟨.unboundSource, .inr ⟨by decide, hs⟩, fun s' h => ?_⟩
    rw [exec, execRdh, readThen, memRead_unbound 1 ((h.2 rfl).trans hs)]
  by_cases ha : q.answers.head? = some .fault ∨ q.bytes.length < 1
  · refine .inr ⟨.readSome ⟨q.bytes, q.answers.tail⟩ 1, .rdhFailed, ⟨rfl, rfl, q, hs, rfl⟩, rfl, fun s' h => ?_⟩
    rw [exec, execRdh, readThen, memRead_fail ((h.2 rfl).trans hs) ha]
    rfl
  · rw [not_or, Nat.not_lt] at ha
    refine .inr ⟨.read ⟨q.bytes.drop 1, q.answers.tail⟩, .rdhSplit (BitVec.ofNat 8 (beVal (q.bytes.take 1))),
      ⟨rfl, q, hs, ha.2, rfl⟩, rfl, fun s' h => ?_⟩
    rw [exec, execRdh, readThen, memRead_yield ((h.2 rfl).trans hs) ha.1 ha.2]
    rfl

theorem Phase2.got_legal (r : Resolved) : (Phase2.got r).legal := fun _ => trivial
theorem Phase2.sourceFault_legal : (Phase2.failed .sourceFault).legal := fun _ => trivial

theorem immediate_legal {info : AdditionalInfo} (h : trailingBytes info = 0) : (immediate info).legal := by
  rcases immediate_cases h with ⟨r, hr⟩ | ⟨hres, hr⟩ <;> rw [hr]
  · exact Phase2.got_legal r
  · rcases hres with rfl | rfl | rfl <;> exact fun _ => ⟨by decide, by decide⟩

/-- Phase 2 is refused, or is one touch of the Source and one end, and the Source alone says which. -/
theorem readMagnitude_planned {i : Instr} {info : AdditionalInfo} (hi : readInfo i = some info) (s : State) :
    (∃ r, (readLength i ≠ 0 ∧ s.source? = none) ∧
      ∀ s' fin, s'.source? = s.source? → readMagnitude info s' fin = .refused r) ∨
    ∃ (c : Touch) (p : Phase2), c.Fits i s ∧ p.legal ∧
      ∀ s' fin, s'.source? = s.source? → readMagnitude info s' fin = fin p (c.run s') := by
  have huses := usesSource_of_readInfo hi
  have hlen := readLength_of_readInfo hi
  by_cases hn : trailingBytes info = 0
  · exact .inr ⟨.none, immediate info, trivial, immediate_legal hn, fun s' fin _ => by
      rw [readMagnitude_eq, if_pos hn, Touch.run]⟩
  rcases hs : s.source? with _ | q
  · refine .inl ⟨.unboundSource, ⟨hlen.trans_ne hn, rfl⟩, fun s' fin h => ?_⟩
    rw [readMagnitude_eq, if_neg hn, readField, readThen, memRead_unbound _ h]
  by_cases ha : q.answers.head? = some .fault ∨ q.bytes.length < trailingBytes info
  · refine .inr ⟨.readSome ⟨q.bytes, q.answers.tail⟩ (trailingBytes info), .failed .sourceFault,
      ⟨huses, hlen.symm, q, hs, rfl⟩, Phase2.sourceFault_legal, fun s' fin h => ?_⟩
    rw [readMagnitude_eq, if_neg hn, readField, readThen, memRead_fail h ha, Touch.run]
  · rw [not_or, Nat.not_lt] at ha
    refine .inr ⟨.read ⟨q.bytes.drop (trailingBytes info), q.answers.tail⟩,
      .got (.mag (BitVec.ofNat 64 (beVal (q.bytes.take (trailingBytes info))))),
      ⟨huses, q, hs, hlen ▸ ha.2, by rw [hlen]⟩, Phase2.got_legal _, fun s' fin h => ?_⟩
    rw [readMagnitude_eq, if_neg hn, readField, readThen, memRead_yield h ha.1 ha.2, Touch.run]

/-- An instruction that reads for an info value is Phase 2 of it, and then an end of its own. -/
theorem exec_reads {i : Instr} {info : AdditionalInfo} (hi : readInfo i = some info) :
    ∃ e : Phase2 → Ending, (∀ p, p.legal → (e p).Fits i) ∧
      ∀ s, exec i s = readMagnitude info s fun p u => .next ((e p).run u) := by
  cases i <;> cases hi
  case rdm => exact ⟨.rdm, fun _ hp => ⟨⟨info, rfl⟩, hp⟩, fun _ => rfl⟩
  all_goals exact ⟨.item _, fun _ hp => ⟨rfl, hp⟩, fun _ => rfl⟩

theorem exec_planned (i : Instr) (s : State) : Planned i s := by
  rcases hi : readInfo i with _ | info
  · cases i <;> cases hi
    case none.enc.refl mt m => exact planned_enc mt m s
    case none.dec.refl hb =>
      exact .inr ⟨.none, .returned (.ok (.phase1 (splitHeader hb))), trivial, ⟨rfl, trivial⟩, fun _ _ => rfl⟩
    case none.rdh.refl => exact planned_rdh s
  · have huses := usesSource_of_readInfo hi
    obtain ⟨e, he, hexec⟩ := exec_reads hi
    rcases readMagnitude_planned hi s with ⟨r, hno, hr⟩ | ⟨c, p, hc, hp, hrun⟩
    · exact .inl ⟨r, .inr hno, fun s' h => (hexec s').trans (hr s' _ (h.2 huses))⟩
    · exact .inr ⟨c, e p, hc, he p hp, fun s' h => (hexec s').trans (hrun s' _ (h.2 huses))⟩

/-! ### What a touch changes -/

section Touch

variable (c : Touch) (s : State)

@[simp] theorem Touch.run_inst : (c.run s).inst = s.inst := by cases c <;> rfl
@[simp] theorem Touch.run_others : (c.run s).others = s.others := by cases c <;> rfl
@[simp] theorem Touch.run_boundSink : (c.run s).boundSink = s.boundSink := by cases c <;> rfl
@[simp] theorem Touch.run_boundSource : (c.run s).boundSource = s.boundSource := by cases c <;> rfl
@[simp] theorem Touch.run_events : (c.run s).events = s.events := by cases c <;> rfl
@[simp] theorem Touch.run_due : (c.run s).due = s.due := by cases c <;> rfl

end Touch

/-- The Sinks of u are those of s, but that the bound one may hold some of the instruction's bytes more, from the first. -/
structure SinksTouched (i : Instr) (s u : State) : Prop where
  others : OtherSinksKept s u
  bound : ∀ k, s.sink? = some k → ∃ k' j, u.sink? = some k' ∧ k'.bytes = k.bytes ++ (writeBytes i).take j
  unused : usesSink i = false → u.sinks = s.sinks

/-- The Sources of u are those of s, but that the bound one may have lost some bytes from its front, at most the instruction's
number. -/
structure SourcesTouched (i : Instr) (s u : State) : Prop where
  others : OtherSourcesKept s u
  bound : ∀ q, s.source? = some q →
    ∃ q' j, u.source? = some q' ∧ j ≤ min (readLength i) q.bytes.length ∧ q'.bytes = q.bytes.drop j
  unused : usesSource i = false → u.sources = s.sources

section Touched

variable {i : Instr} {s u : State}

theorem SinksTouched.of_eq (h : u.sinks = s.sinks) (hb : u.boundSink = s.boundSink) : SinksTouched i s u where
  others := ⟨by rw [h], fun j _ => by rw [h]⟩
  bound := fun k hk => ⟨k, 0, by rw [State.sink?, h, hb]; exact hk, by rw [List.take_zero, List.append_nil]⟩
  unused := fun _ => h

theorem SinksTouched.of_set {k k' : Sink} {j : Nat} (huses : usesSink i = true) (hk : s.sink? = some k)
    (h : u.sinks = s.sinks.set s.boundSink k') (hb : u.boundSink = s.boundSink)
    (hbytes : k'.bytes = k.bytes ++ (writeBytes i).take j) : SinksTouched i s u where
  others := ⟨by rw [h, List.length_set], fun j hj => by rw [h, List.getElem?_set_ne hj.symm]⟩
  bound := fun k₀ hk₀ => by
    cases hk.symm.trans hk₀
    refine ⟨k', j, ?_, hbytes⟩
    rw [State.sink?, h, hb]
    exact setSink_sink? k' hk
  unused := fun hno => absurd huses (by rw [hno]; decide)

theorem SinksTouched.trans_eq {t : State} (h : SinksTouched i s u) (hs : t.sinks = u.sinks) (hb : t.boundSink = u.boundSink) :
    SinksTouched i s t where
  others := by rw [OtherSinksKept, hs]; exact h.others
  bound := by rw [State.sink?, State.sink?, hs, hb]; exact h.bound
  unused := by rw [hs]; exact h.unused

theorem SourcesTouched.of_eq (h : u.sources = s.sources) (hb : u.boundSource = s.boundSource) : SourcesTouched i s u where
  others := ⟨by rw [h], fun j _ => by rw [h]⟩
  bound := fun q hq => ⟨q, 0, by rw [State.source?, h, hb]; exact hq, Nat.zero_le _, rfl⟩
  unused := fun _ => h

theorem SourcesTouched.of_set {q q' : Source} {j : Nat} (huses : usesSource i = true) (hq : s.source? = some q)
    (h : u.sources = s.sources.set s.boundSource q') (hb : u.boundSource = s.boundSource)
    (hj : j ≤ min (readLength i) q.bytes.length) (hbytes : q'.bytes = q.bytes.drop j) : SourcesTouched i s u where
  others := ⟨by rw [h, List.length_set], fun j hj => by rw [h, List.getElem?_set_ne hj.symm]⟩
  bound := fun q₀ hq₀ => by
    cases hq.symm.trans hq₀
    refine ⟨q', j, ?_, hj, hbytes⟩
    rw [State.source?, h, hb]
    exact setSource_source? q' hq
  unused := fun hno => absurd huses (by rw [hno]; decide)

theorem SourcesTouched.trans_eq {t : State} (h : SourcesTouched i s u) (hs : t.sources = u.sources)
    (hb : t.boundSource = u.boundSource) : SourcesTouched i s t where
  others := by rw [OtherSourcesKept, hs]; exact h.others
  bound := by rw [State.source?, State.source?, hs, hb]; exact h.bound
  unused := by rw [hs]; exact h.unused

theorem SourcesTouched.eq_trans {t : State} (hs : s.sources = t.sources) (hb : s.boundSource = t.boundSource)
    (h : SourcesTouched i s u) : SourcesTouched i t u where
  others := by rw [OtherSourcesKept, ← hs, ← hb]; exact h.others
  bound := by rw [State.source?, ← hs, ← hb]; exact h.bound
  unused := by rw [← hs]; exact h.unused

theorem Touch.Fits.sinks {c : Touch} (h : c.Fits i s) : SinksTouched i s (c.run s) := by
  cases c with
  | none => exact .of_eq rfl rfl
  | write k' =>
    obtain ⟨huses, k, hk, hbytes⟩ := h
    exact .of_set (j := (writeBytes i).length) huses hk rfl rfl (by rw [hbytes, List.take_length])
  | writeSome k' bs =>
    obtain ⟨huses, rfl, k, hk, hbytes⟩ := h
    exact .of_set huses hk rfl rfl (by rw [hbytes])
  | read q => exact .of_eq rfl rfl
  | readSome q n => exact .of_eq rfl rfl

theorem Touch.Fits.sources {c : Touch} (h : c.Fits i s) : SourcesTouched i s (c.run s) := by
  cases c with
  | none => exact .of_eq rfl rfl
  | write k => exact .of_eq rfl rfl
  | writeSome k bs => exact .of_eq rfl rfl
  | read q' =>
    obtain ⟨huses, q, hq, hlen, hbytes⟩ := h
    exact .of_set huses hq rfl rfl (Nat.le_min.mpr ⟨le_rfl, hlen⟩) hbytes
  | readSome q' n =>
    obtain ⟨huses, rfl, q, hq, hbytes⟩ := h
    have hdrawn : s.draw (min (readLength i) q'.bytes.length) ≤ min (readLength i) q.bytes.length := by
      rw [hbytes]
      exact draw_le _ _
    exact .of_set huses hq rfl rfl hdrawn (by rw [hbytes])

/-- What a touch leaves in the bound Sink depends on that Sink and on the draw counter. -/
theorem Touch.Fits.run_sink? {c : Touch} {s' : State} (h : c.Fits i s) (hsink : s'.sink? = s.sink?)
    (hdraws : s'.draws = s.draws) : (c.run s').sink? = (c.run s).sink? := by
  cases c with
  | none => exact hsink
  | write k' =>
    obtain ⟨-, k, hk, -⟩ := h
    exact (setSink_sink? k' (hsink.trans hk)).trans (setSink_sink? k' hk).symm
  | writeSome k' bs =>
    obtain ⟨-, -, k, hk, -⟩ := h
    have hdraw : s'.draw bs.length = s.draw bs.length := by cases bs.length <;> simp [State.draw, hdraws]
    simp only [Touch.run, partialWrite, hdraw, nextDraw_sink?]
    exact (setSink_sink? _ (hsink.trans hk)).trans (setSink_sink? _ hk).symm
  | read q => exact hsink
  | readSome q n => exact hsink

end Touched

/-! ### What an end changes -/

section End

variable (e : Ending) (s : State)

@[simp] theorem Ending.run_others : (e.run s).others = s.others := by cases e <;> rfl
@[simp] theorem Ending.run_sinks : (e.run s).sinks = s.sinks := by cases e <;> rfl
@[simp] theorem Ending.run_sources : (e.run s).sources = s.sources := by cases e <;> rfl
@[simp] theorem Ending.run_boundSink : (e.run s).boundSink = s.boundSink := by cases e <;> rfl
@[simp] theorem Ending.run_boundSource : (e.run s).boundSource = s.boundSource := by cases e <;> rfl
@[simp] theorem Ending.run_events : (e.run s).events = s.events := by cases e <;> rfl
@[simp] theorem Ending.run_sink? : (e.run s).sink? = s.sink? := by cases e <;> rfl
@[simp] theorem Ending.run_inst_id : (e.run s).inst.id = s.inst.id := by cases e <;> rfl
@[simp] theorem Ending.run_inst_program : (e.run s).inst.program = s.inst.program := by cases e <;> rfl
@[simp] theorem Ending.run_inst_k : (e.run s).inst.k = s.inst.k + 1 := by cases e <;> rfl
@[simp] theorem Ending.run_inst_results : (e.run s).inst.results = s.inst.results ++ [e.result] := by cases e <;> rfl
@[simp] theorem Ending.run_inst_result : (e.run s).inst.result = some e.result := by cases e <;> rfl
@[simp] theorem Ending.run_inst_inFlight : (e.run s).inst.inFlight = none := by cases e <;> rfl
@[simp] theorem Ending.run_inst_headers : (e.run s).inst.headers = s.inst.headers ++ e.yields := by
  cases e <;> simp [Ending.run, Ending.yields]

end End

/-! ### What an instruction changes -/

/-- An instruction that goes on has made one touch and one end of its own. -/
theorem exec_next {i : Instr} {s t : State} (h : exec i s = .next t) :
    ∃ (c : Touch) (e : Ending), c.Fits i s ∧ e.Fits i ∧ t = e.run (c.run s) := by
  rcases exec_planned i s with ⟨r, -, hr⟩ | ⟨c, e, hc, he, hrun⟩
  · rw [hr s (.refl i s)] at h
    cases h
  · rw [hrun s (.refl i s)] at h
    cases h
    exact ⟨c, e, hc, he, rfl⟩

section Exec

variable {i : Instr} {s t : State}

theorem exec_keepsCaller (h : exec i s = .next t) : KeepsCaller s t := by
  obtain ⟨c, e, -, -, rfl⟩ := exec_next h
  constructor <;> simp

theorem Returns.of_run {c : Touch} {e : Ending} (h : exec i s = .next (e.run (c.run s))) :
    Returns i s e.result (e.run (c.run s)) := ⟨h, by simp, by simp, by simp, by simp⟩

theorem exec_returns (h : exec i s = .next t) : ∃ r, Returns i s r t := by
  obtain ⟨c, e, -, -, rfl⟩ := exec_next h
  exact ⟨e.result, .of_run h⟩

theorem exec_sinks (h : exec i s = .next t) : SinksTouched i s t := by
  obtain ⟨c, e, hc, -, rfl⟩ := exec_next h
  exact hc.sinks.trans_eq (e.run_sinks _) (e.run_boundSink _)

theorem exec_sources (h : exec i s = .next t) : SourcesTouched i s t := by
  obtain ⟨c, e, hc, -, rfl⟩ := exec_next h
  exact hc.sources.trans_eq (e.run_sources _) (e.run_boundSource _)

theorem exec_headers_of_not_item (hi : isItem i = false) (h : exec i s = .next t) : t.inst.headers = s.inst.headers := by
  obtain ⟨c, e, -, he, rfl⟩ := exec_next h
  cases e with
  | item mt p => exact absurd he.1 (by rw [hi]; decide)
  | _ => simp [Ending.yields]

theorem exec_headers_of_item (hi : isItem i = true) (h : exec i s = .next t) :
    ∃ y, t.inst.headers = s.inst.headers ++ [y] := by
  obtain ⟨p, hp⟩ := isItem_iff.mp hi
  rw [exec_of_itemHeader hp, runItem] at h
  rcases readMagnitude_planned (readInfo_of_itemHeader hp) s with ⟨r, -, hr⟩ | ⟨c, p2, -, -, hrun⟩
  · rw [hr s _ rfl] at h
    cases h
  · rw [hrun s _ rfl] at h
    cases h
    exact ⟨p2.hdrYield p.mt, by simp⟩

end Exec

/-! ### The headers whose RDM is due (R124) -/

@[simp] theorem settle_run_due (c : Touch) (s : State) : (settle (c.run s)).due = (settle s).due := by simp [settle]

@[simp] theorem awaitRdm_run_due (c : Touch) (info : AdditionalInfo) (s : State) :
    (awaitRdm info (c.run s)).due = (awaitRdm info s).due := by simp [awaitRdm]

section Due

variable {i : Instr} {s t : State}

/-- A command that uses no Source leaves alone what is due; an RDM, a header-byte row or a failed RDH settles its Source; an RDH
that splits a header byte makes that byte's RDM due. -/
theorem exec_due (h : exec i s = .next t) :
    (usesSource i = false ∧ t.due = s.due) ∨
    (((readInfo i).isSome = true ∨ i = .rdh ∧ t.inst.result = some (.err .sourceFault)) ∧ t.due = (settle s).due) ∨
    (i = .rdh ∧ ∃ p, t.inst.result = some (.ok (.phase1 p)) ∧ t.due = (awaitRdm p.info s).due) := by
  obtain ⟨c, e, -, he, rfl⟩ := exec_next h
  cases e with
  | returned r => exact .inl ⟨he.1, by simp [Ending.run]⟩
  | rdhFailed => exact .inr (.inl ⟨.inr ⟨he, rfl⟩, by simp [Ending.run]⟩)
  | rdhSplit hb => exact .inr (.inr ⟨he, splitHeader hb, rfl, by simp [Ending.run]⟩)
  | rdm p =>
    obtain ⟨⟨info, rfl⟩, -⟩ := he
    exact .inr (.inl ⟨.inl rfl, by simp [Ending.run]⟩)
  | item mt p =>
    obtain ⟨p', hp'⟩ := isItem_iff.mp he.1
    exact .inr (.inl ⟨.inl (by rw [readInfo_of_itemHeader hp']; rfl), by simp [Ending.run]⟩)

/-- What is due on other Sources stays so. -/
theorem exec_due_other (h : exec i s = .next t) {e : DueRdm} (he : e.source ≠ s.boundSource) : e ∈ t.due ↔ e ∈ s.due := by
  rcases exec_due h with ⟨-, hd⟩ | ⟨-, hd⟩ | ⟨-, p, -, hd⟩ <;> rw [hd]
  · simp [he]
  · exact mem_awaitRdm_other he

theorem exec_due_sorted (h : exec i s = .next t) (hs : s.due.Pairwise fun a b => a.source < b.source) :
    t.due.Pairwise fun a b => a.source < b.source := by
  rcases exec_due h with ⟨-, hd⟩ | ⟨-, hd⟩ | ⟨-, p, -, hd⟩ <;> rw [hd]
  · exact hs
  · exact settle_due_sorted hs
  · exact awaitRdm_due_sorted hs

end Due

/-! ### The bytes of the bound streams -/

theorem SinksTouched.sinkBytes {i : Instr} {s u : State} (h : SinksTouched i s u) (hb : u.boundSink = s.boundSink) :
    ∃ j, u.sinkBytes = s.sinkBytes ++ (writeBytes i).take j := by
  rcases hs : s.sink? with _ | k
  · have hu : u.sink? = none := by
      rw [State.sink?, List.getElem?_eq_none_iff] at hs ⊢
      rwa [hb, h.others.1]
    exact ⟨0, by simp [State.sinkBytes, hs, hu]⟩
  · obtain ⟨k', j, hk', hbytes⟩ := h.bound k hs
    exact ⟨j, by rw [sinkBytes_of_sink? hk', sinkBytes_of_sink? hs, hbytes]⟩

theorem SourcesTouched.sourceBytes {i : Instr} {s u : State} (h : SourcesTouched i s u)
    (hb : u.boundSource = s.boundSource) : ∃ j, j ≤ readLength i ∧ u.sourceBytes = s.sourceBytes.drop j := by
  rcases hs : s.source? with _ | q
  · have hu : u.source? = none := by
      rw [State.source?, List.getElem?_eq_none_iff] at hs ⊢
      rwa [hb, h.others.1]
    exact ⟨0, Nat.zero_le _, by simp [State.sourceBytes, hs, hu]⟩
  · obtain ⟨q', j, hq', hj, hbytes⟩ := h.bound q hs
    exact ⟨j, (Nat.le_min.mp hj).1, by rw [sourceBytes_of_source? hq', sourceBytes_of_source? hs, hbytes]⟩

end Sys2Proof.Machine
end

section
/-! PROOFS. The frames of the instructions, and what they do not depend on. -/

namespace Sys2Proof.Proofs

open Sys2Proof.Machine

/-- Settles O12. -/
theorem encFrame : Obligations.EncFrame := by
  intro mt m s t h
  have hcaller := exec_keepsCaller h
  have hsinks := exec_sinks h
  have hdue : t.due = s.due := by
    rcases exec_due h with ⟨-, hd⟩ | ⟨hi | ⟨hi, -⟩, -⟩ | ⟨hi, -⟩
    · exact hd
    all_goals cases hi
  exact ⟨hcaller, hsinks.others, (exec_sources h).unused rfl, exec_headers_of_not_item rfl h, hdue, exec_returns h,
    hsinks.sinkBytes hcaller.boundSink⟩

/-- Settles O16. -/
theorem decFrame : Obligations.DecFrame := by
  intro hb s t h
  refine ⟨exec_keepsCaller h, (exec_sinks h).unused rfl, (exec_sources h).unused rfl, exec_headers_of_not_item rfl h, ?_, ?_,
    exec_returns h⟩ <;> cases h <;> rfl

/-- Settles O28. -/
theorem rdmRdhFrame : Obligations.RdmRdhFrame := by
  intro i s t hi h
  have hcaller := exec_keepsCaller h
  have hsources := exec_sources h
  have hkind : usesSink i = false ∧ isItem i = false := by
    rcases hi with rfl | ⟨info, rfl⟩ <;> exact ⟨rfl, rfl⟩
  exact ⟨hcaller, hsources.others, (exec_sinks h).unused hkind.1, exec_headers_of_not_item hkind.2 h,
    fun _ he => exec_due_other h he, exec_returns h, hsources.sourceBytes hcaller.boundSource⟩

/-- Settles O35. -/
theorem itemFrame : Obligations.ItemFrame := by
  intro i s t hi h
  have hcaller := exec_keepsCaller h
  have hsources := exec_sources h
  obtain ⟨p, hp⟩ := isItem_iff.mp hi
  exact ⟨hcaller, hsources.others, (exec_sinks h).unused (usesSink_of_itemHeader hp), exec_headers_of_item hi h,
    exec_returns h, fun _ he => exec_due_other h he, hsources.sourceBytes hcaller.boundSource⟩

end Sys2Proof.Proofs
end

section
/-! SUPPORT. The least info that carries a magnitude (R57, R81), and what RDH, RDM and the header-byte rows return. -/

namespace Sys2Proof.Machine

/-! ### The minimal info (R57, R81) -/

theorem toNat_infoOf (m : Nat) : (infoOf m).toNat =
    if m ≤ 23 then m else if m ≤ 255 then 24 else if m ≤ 65535 then 25 else if m ≤ 4294967295 then 26 else 27 := by
  rw [infoOf]
  split_ifs with h
  · rw [BitVec.toNat_ofNat]
    omega
  all_goals rfl

/-- A magnitude that an info can carry, by the info. -/
theorem canCarry_cases {i : AdditionalInfo} {m : Nat} (h : canCarry i m) :
    m = i.toNat ∧ m ≤ 23 ∨ i.toNat = 24 ∧ m < 2 ^ 8 ∨ i.toNat = 25 ∧ m < 2 ^ 16 ∨ i.toNat = 26 ∧ m < 2 ^ 32 ∨
      i.toNat = 27 ∧ m < 2 ^ 64 := by
  have fields : ∀ i : AdditionalInfo, i.toNat < 24 ∨ 27 < i.toNat ∨ i = 24 ∨ i = 25 ∨ i = 26 ∨ i = 27 := by decide
  unfold canCarry at h
  split_ifs at h with hi
  · exact .inl ⟨h, by omega⟩
  · obtain ⟨hle, hm⟩ := h
    rcases fields i with h24 | h27 | rfl | rfl | rfl | rfl
    · omega
    · omega
    · exact .inr (.inl ⟨rfl, hm⟩)
    · exact .inr (.inr (.inl ⟨rfl, hm⟩))
    · exact .inr (.inr (.inr (.inl ⟨rfl, hm⟩)))
    · exact .inr (.inr (.inr (.inr ⟨rfl, hm⟩)))

theorem infoOf_le_of_canCarry {i : AdditionalInfo} {m : Nat} (h : canCarry i m) : (infoOf m).toNat ≤ i.toNat := by
  rw [toNat_infoOf]
  have hcarry := canCarry_cases h
  split_ifs <;> omega

/-- The trailing bytes of a magnitude beyond the direct tier hold it. -/
theorem lt_two_pow_nTrail {m : Nat} (h24 : 24 ≤ m) (hm : m < 2 ^ 64) : m < 2 ^ (8 * nTrail m) := by
  rw [nTrail]
  split_ifs <;> omega

theorem canCarry_infoOf {m : Nat} (hm : m < 2 ^ 64) : canCarry (infoOf m) m := by
  rw [canCarry, trailingBytes_infoOf, toNat_infoOf]
  by_cases h : m ≤ 23
  · rw [if_pos h, if_pos (by omega)]
  · have hfield := lt_two_pow_nTrail (by omega) hm
    rw [if_neg h]
    split_ifs <;> omega

theorem toNat_infoOf_le (m : Nat) : (infoOf m).toNat ≤ 27 := by
  rw [toNat_infoOf]
  split_ifs <;> omega

/-! ### Reads that fail (R36, R97) -/

theorem partialRead_sourceBytes {s : State} {q₀ : Source} (q : Source) (n : Nat) (h : s.source? = some q₀) :
    (partialRead q n s).sourceBytes = q.bytes.drop (s.draw (min n q.bytes.length)) := by
  rw [partialRead, State.sourceBytes, nextDraw_source?, setSource_source? _ h]
  rfl

/-- A read of a Source that is closed or short fails, after some bytes within its bound. -/
theorem readThen_fails {n : Nat} {s : State} (hf : SourceFails n s) :
    ∃ u j, u.inst = s.inst ∧ j ≤ min n s.sourceBytes.length ∧ u.sourceBytes = s.sourceBytes.drop j ∧
      ∀ fault next, readThen n s fault next = fault u := by
  obtain ⟨q, hq, ha⟩ := hf
  rw [sourceBytes_of_source? hq]
  exact ⟨partialRead ⟨q.bytes, q.answers.tail⟩ n s, s.draw (min n q.bytes.length), rfl, draw_le _ _,
    partialRead_sourceBytes _ _ hq, fun fault next => by rw [readThen, memRead_fail hq ha]⟩

theorem readMagnitude_fails {info : AdditionalInfo} {s : State} (hn : trailingBytes info ≠ 0)
    (hf : SourceFails (trailingBytes info) s) :
    ∃ u j, u.inst = s.inst ∧ j ≤ min (trailingBytes info) s.sourceBytes.length ∧ u.sourceBytes = s.sourceBytes.drop j ∧
      ∀ fin, readMagnitude info s fin = fin (.failed .sourceFault) u := by
  obtain ⟨u, j, hu, hj, hbytes, hread⟩ := readThen_fails hf
  exact ⟨u, j, hu, hj, hbytes, fun fin => by rw [readMagnitude_eq, if_neg hn, readField, hread]⟩

/-! ### RDH (R98) -/

/-- RDH of an open Source takes its first byte, and its answer to this one access. -/
theorem exec_rdh_splits {s : State} {q : Source} {hb : Byte} {rest : List Byte} (hq : s.source? = some q)
    (ha : q.answers.head? ≠ some .fault) (hbytes : q.bytes = hb :: rest) :
    exec .rdh s = .next (endRdh hb (s.setSource ⟨rest, q.answers.tail⟩)) := by
  rw [exec, execRdh, readThen, memRead_yield hq ha (by simp [hbytes])]
  simp [hbytes]

theorem exec_rdh_fails {s : State} (hf : SourceFails 1 s) :
    ∃ u j, u.inst = s.inst ∧ j ≤ min 1 s.sourceBytes.length ∧ u.sourceBytes = s.sourceBytes.drop j ∧
      exec .rdh s = .next (raise .sourceFault (settle u)) := by
  obtain ⟨u, j, hu, hj, hbytes, hread⟩ := readThen_fails hf
  exact ⟨u, j, hu, hj, hbytes, by rw [exec, execRdh, hread]⟩

/-- The front of an open Source. -/
theorem source?_of_open {n : Nat} {s : State} {hb : Byte} {rest : List Byte} (ho : SourceOpen (n + 1) s)
    (hs : s.sourceBytes = hb :: rest) :
    ∃ q, s.source? = some q ∧ q.answers.head? ≠ some .fault ∧ q.bytes = hb :: rest ∧
      Answer.fault ∉ q.answers.tail.take n := by
  obtain ⟨q, hq, ha⟩ := ho
  rw [fault_mem_take_succ, not_or] at ha
  exact ⟨q, hq, ha.1, by rw [← sourceBytes_of_source? hq, hs], ha.2⟩

/-- RDH returns the split of the byte at the front, and leaves the Source open for the accesses that come after. -/
theorem rdh_returns {n : Nat} {s : State} {hb : Byte} {rest : List Byte} (ho : SourceOpen (n + 1) s)
    (hs : s.sourceBytes = hb :: rest) :
    ∃ t, Returns .rdh s (.ok (.phase1 (splitHeader hb))) t ∧ t.sourceBytes = rest ∧ SourceOpen n t := by
  obtain ⟨q, hq, ha, hbytes, hopen⟩ := source?_of_open ho hs
  have hq' := setSource_source? ⟨rest, q.answers.tail⟩ hq
  exact ⟨_, .of_complete (u := awaitRdm _ _) (exec_rdh_splits hq ha hbytes) rfl, sourceBytes_of_source? hq', _, hq', hopen⟩

/-! ### RDM and the header-byte rows -/

theorem beVal_beBytes_of_lt {n v : Nat} (h : v < 2 ^ (8 * n)) : beVal (beBytes n v) = v :=
  (beVal_beBytes n v).trans (Nat.mod_eq_of_lt h)

/-- RDM returns what Phase 2 ended in. -/
theorem rdm_returns {info : AdditionalInfo} {s u : State} {p : Phase2}
    (hread : ∀ fin, readMagnitude info s fin = fin p u) (hu : u.inst = s.inst) :
    ∃ t, Returns (.rdm info) s p.result t ∧ t.sources = u.sources ∧ t.sourceBytes = u.sourceBytes :=
  ⟨_, .of_complete (u := settle u) (by rw [exec, execRdm, hread, endRdm]) hu, rfl, rfl⟩

/-- RDM of the minimal info gives back the magnitude, from the info alone or from the trailing bytes (R99). -/
theorem rdm_reads_back {m : Nat} {s : State} {rest : List Byte} (hm : m < 2 ^ 64) (ho : SourceOpen 1 s)
    (hs : s.sourceBytes = beBytes (nTrail m) m ++ rest) :
    ∃ t v, Returns (.rdm (infoOf m)) s (.ok (.resolved (.mag v))) t ∧ v.toNat = m ∧ t.sourceBytes = rest := by
  by_cases h : m ≤ 23
  · have hinfo : (infoOf m).toNat = m := (toNat_infoOf m).trans (if_pos h)
    have hdirect : (infoOf m).toNat < 24 := by omega
    obtain ⟨t, hr, -, ht⟩ := rdm_returns (info := infoOf m) (u := s)
      (fun fin => by rw [readMagnitude_eq, if_pos (trailingBytes_direct hdirect)]) rfl
    rw [immediate_direct hdirect] at hr
    refine ⟨t, _, hr, ?_, ?_⟩
    · rw [BitVec.toNat_setWidth, hinfo]
      omega
    · rw [ht, hs, nTrail_direct h, beBytes, List.nil_append]
  · have hfield : trailingBytes (infoOf m) ≠ 0 := by
      rw [trailingBytes_ne_zero, toNat_infoOf, if_neg h]
      split_ifs <;> decide
    obtain ⟨t, hr, ht⟩ := rdm_reads_field hfield (by rw [trailingBytes_infoOf, length_beBytes]) ho hs
    rw [beVal_beBytes_of_lt (lt_two_pow_nTrail (by omega) hm)] at hr
    exact ⟨t, _, hr, by rw [BitVec.toNat_ofNat, Nat.mod_eq_of_lt hm], ht⟩

theorem Phase2.hdrYield_of_ok {p : Phase2} {mt : MajorType} {r : Resolved} (h : p.result = .ok (.resolved r)) :
    p.hdrYield mt = .header ⟨mt, r⟩ := by
  cases p <;> cases h
  rfl

theorem Phase2.hdrYield_of_err {p : Phase2} {mt : MajorType} {e : ErrorKind} (h : p.result = .err e) :
    p.hdrYield mt = .error e := by
  cases p <;> cases h
  rfl

/-- A header-byte row returns what Phase 2 ended in, and its HDR yields that (R65). -/
theorem item_returns {i : Instr} {h : Phase1} {s u : State} {p : Phase2} (hi : itemHeader i = some h)
    (hread : ∀ fin, readMagnitude h.info s fin = fin p u) (hu : u.inst = s.inst) :
    ∃ t, Returns i s p.result t ∧ t.sources = u.sources ∧ t.sourceBytes = u.sourceBytes ∧
      t.inst.headers = s.inst.headers ++ [p.hdrYield h.mt] := by
  refine ⟨yieldHdr (p.hdrYield h.mt) (endRdm p u), ⟨?_, rfl, ?_, ?_, rfl⟩, rfl, rfl, ?_⟩
  · rw [exec_of_itemHeader hi, runItem, hread]
  all_goals simp [hu]

/-- A header-byte row of an info with no trailing field returns at once (R87, R92, R93). -/
theorem item_immediate {i : Instr} {h : Phase1} (hi : itemHeader i = some h) (hn : trailingBytes h.info = 0) (s : State) :
    ∃ t, Returns i s (immediate h.info).result t ∧ t.sources = s.sources ∧
      t.inst.headers = s.inst.headers ++ [(immediate h.info).hdrYield h.mt] := by
  obtain ⟨t, hr, hsources, -, hyield⟩ :=
    item_returns (u := s) hi (fun fin => by rw [readMagnitude_eq, if_pos hn]) rfl
  exact ⟨t, hr, hsources, hyield⟩

/-- The rows with trailing bytes, each with the header byte it carries. -/
theorem fieldItem_header {mt : MajorType} {i : Instr} {n : Nat}
    (h : (i, n) ∈ [(Instr.hdrAi24 mt, 1), (.hdrAi25 mt, 2), (.hdrAi26 mt, 4), (.hdrAi27 mt, 8)]) :
    ∃ info, itemHeader i = some ⟨mt, info⟩ ∧ trailingBytes info = n ∧ n ≠ 0 := by
  simp only [List.mem_cons, Prod.mk.injEq, List.not_mem_nil, or_false] at h
  rcases h with ⟨rfl, rfl⟩ | ⟨rfl, rfl⟩ | ⟨rfl, rfl⟩ | ⟨rfl, rfl⟩
  · exact ⟨24, rfl, by decide, by decide⟩
  · exact ⟨25, rfl, by decide, by decide⟩
  · exact ⟨26, rfl, by decide, by decide⟩
  · exact ⟨27, rfl, by decide, by decide⟩

end Sys2Proof.Machine
end

section
/-! PROOFS. The statements on single instructions: ENC, DEC, RDM, RDH and the header-byte rows. -/

namespace Sys2Proof.Proofs

open Sys2Proof.Machine

/-- Settles O29 (R99): RDH gives back the minimal info, and RDM what the info or the trailing bytes hold. -/
theorem roundTripOfEncoderAndDecoder : Obligations.RoundTripOfEncoderAndDecoder := by
  intro mt m s h0 hm hs
  obtain ⟨t, hr, hsent⟩ := enc_appends (mt := mt) ⟨h0, hm⟩ hs
  refine ⟨t, encodeBytes (mtCode mt) m.toNat, hr.next, hsent, fun u rest ho hu => ?_⟩
  obtain ⟨u₁, hr₁, hrest, ho₁⟩ := rdh_returns ho hu
  rw [splitHeader_headerByte] at hr₁
  have hlt : m.toNat < 2 ^ 64 := by omega
  obtain ⟨u₂, v, hr₂, hv, hrest₂⟩ := rdm_reads_back hlt ho₁ hrest
  exact ⟨u₁, u₂, _, v, hr₁, hr₂, by omega, hrest₂, canCarry_infoOf hlt, fun _ => infoOf_le_of_canCarry⟩

/-- Settles O9 (R81). -/
theorem encEmitsMinimalInfo : Obligations.EncEmitsMinimalInfo := by
  intro mt m s h0 hm hs
  obtain ⟨t, hr, hb⟩ := enc_appends (mt := mt) ⟨h0, hm⟩ hs
  refine ⟨t, headerByte (mtCode mt) (infoOf m.toNat), beBytes (nTrail m.toNat) m.toNat, hr.next, hb, ?_⟩
  rw [headerInfo_headerByte, List.length_cons, length_beBytes]
  refine ⟨canCarry_infoOf (by omega), fun _ => infoOf_le_of_canCarry, toNat_infoOf_le _, ?_⟩
  simp only [nTrail, Int.toNat_le, Nat.cast_ofNat]
  split_ifs <;> rfl

/-- Settles O11 (R80). -/
theorem encSinkFaultLeavesPrefix : Obligations.EncSinkFaultLeavesPrefix := by
  intro mt m s h0 hm hs
  obtain ⟨k, hk, ha⟩ := hs
  refine ⟨_, s.draw (encodeBytes (mtCode mt) m.toNat).length, .of_complete (exec_enc_faulted mt ⟨h0, hm⟩ hk ha) rfl,
    draw_le _ _, ?_⟩
  rw [complete_sinkBytes, sinkBytes_of_sink? hk]
  exact sinkBytes_of_sink? (setSink_sink? _ hk)

/-- Settles O13 (R46). -/
theorem encDependsOnItsSinkOnly : Obligations.EncDependsOnItsSinkOnly := by
  intro mt m s s' hsink hdraws hbound
  rcases exec_planned (.enc mt m) s with ⟨r, (⟨-, hno⟩ | ⟨hno, -⟩), -⟩ | ⟨c, e, hc, -, hrun⟩
  · rw [hno] at hbound
    cases hbound
  · exact absurd rfl hno
  · have ht := hrun s (.refl _ s)
    have ht' := hrun s' ⟨fun _ => hsink.symm, nofun⟩
    refine ⟨e.result, _, _, .of_run ht, .of_run ht', ?_⟩
    rw [Ending.run_sink?, Ending.run_sink?, hc.run_sink? hsink.symm hdraws.symm]

/-- Settles O15 (R85). -/
theorem decIsPureAndInvertible : Obligations.DecIsPureAndInvertible := fun hb s s' =>
  ⟨splitHeader hb, _, _, .of_complete (u := s) rfl rfl, .of_complete (u := s') rfl rfl, rfl, rfl, headerByte_splitHeader hb⟩

/-- Settles O22 (R92). -/
theorem rdmRejectsReservedInfo : Obligations.RdmRejectsReservedInfo := by
  rintro info s (rfl | rfl | rfl) <;> exact rdm_immediate (by decide) s

/-- Settles O24 (R95). -/
theorem rdmAcceptsNonMinimalFields : Obligations.RdmAcceptsNonMinimalFields := by
  intro info v s rest hn hv ho hs
  have ht := rdm_reads_field hn (length_beBytes _ _).symm ho hs
  rwa [beVal_beBytes_of_lt hv] at ht

/-- Settles O25 (R36, R97). -/
theorem rdmSourceFaultConsumesSome : Obligations.RdmSourceFaultConsumesSome := by
  intro info s hn hf
  obtain ⟨u, j, hu, hj, hbytes, hread⟩ := readMagnitude_fails hn hf
  obtain ⟨t, hr, -, ht⟩ := rdm_returns hread hu
  exact ⟨t, j, hr, hj, ht.trans hbytes⟩

/-- Settles O26 (R96). -/
theorem rdmDependsOnInfoAndSource : Obligations.RdmDependsOnInfoAndSource := by
  intro info s s' hsource hbound
  rcases exec_planned (.rdm info) s with ⟨r, (⟨hno, -⟩ | ⟨hlen, hno⟩), -⟩ | ⟨c, e, -, -, hrun⟩
  · cases hno
  · rcases hbound with hn | hsome
    · exact absurd ((readLength_of_readInfo rfl).trans hn) hlen
    · rw [hno] at hsome
      cases hsome
  · have ht := hrun s (.refl _ s)
    have ht' := hrun s' ⟨nofun, fun _ => hsource.symm⟩
    exact ⟨e.result, _, _, .of_run ht, .of_run ht'⟩

/-- Settles O27 (R98). -/
theorem rdhReadsAndSplits : Obligations.RdhReadsAndSplits := by
  constructor
  · intro s hb rest ho hs
    obtain ⟨t, hr, ht, -⟩ := rdh_returns (n := 0) ho hs
    exact ⟨t, hr, ht⟩
  · intro s hf
    obtain ⟨u, j, hu, hj, hbytes, he⟩ := exec_rdh_fails hf
    exact ⟨_, j, .of_complete (u := settle u) he hu, hj, hbytes⟩

/-- Settles O30 (R87, R65). -/
theorem directItemsYieldTheirInfo : Obligations.DirectItemsYieldTheirInfo := by
  intro mt info s i hi hw
  have hdirect : itemHeader i = some ⟨mt, info⟩ ∧ info.toNat < 24 := by
    rcases hi with rfl | rfl <;> simp only [Instr.wellFormed, Bool.and_eq_true, decide_eq_true_eq] at hw <;>
      exact ⟨rfl, by omega⟩
  have ht := item_immediate hdirect.1 (trailingBytes_direct hdirect.2) s
  rwa [immediate_direct hdirect.2] at ht

/-- Settles O31 (R88 to R91, R65). -/
theorem fieldItemsYieldTheirField : Obligations.FieldItemsYieldTheirField := by
  intro mt i n v s rest hi hv ho hs
  obtain ⟨info, hhdr, rfl, hn⟩ := fieldItem_header hi
  obtain ⟨q, hrest, hread⟩ := readMagnitude_field hn (length_beBytes _ _).symm ho hs
  rw [beVal_beBytes_of_lt hv] at hread
  obtain ⟨t, hr, -, ht, hyield⟩ := item_returns hhdr hread rfl
  exact ⟨t, hr, ht.trans hrest, hyield⟩

/-- Settles O32 (R65, R97). -/
theorem fieldItemsYieldSourceFault : Obligations.FieldItemsYieldSourceFault := by
  intro mt i n s hi hf
  obtain ⟨info, hhdr, rfl, hn⟩ := fieldItem_header hi
  obtain ⟨u, j, hu, hj, hbytes, hread⟩ := readMagnitude_fails hn hf
  obtain ⟨t, hr, -, ht, hyield⟩ := item_returns hhdr hread hu
  exact ⟨t, j, hr, hj, ht.trans hbytes, hyield⟩

/-- Settles O33 (R92, R65). -/
theorem reservedItemsYieldTheError : Obligations.ReservedItemsYieldTheError := by
  intro mt i info s hi
  simp only [List.mem_cons, Prod.mk.injEq, List.not_mem_nil, or_false] at hi
  rcases hi with ⟨rfl, rfl⟩ | ⟨rfl, rfl⟩ | ⟨rfl, rfl⟩
  · exact item_immediate (h := ⟨mt, 28⟩) rfl rfl s
  · exact item_immediate (h := ⟨mt, 29⟩) rfl rfl s
  · exact item_immediate (h := ⟨mt, 30⟩) rfl rfl s

/-- Settles O34 (R93, R65). -/
theorem indefiniteItemYieldsTheSentinel : Obligations.IndefiniteItemYieldsTheSentinel := fun mt s =>
  item_immediate (h := ⟨mt, 31⟩) rfl rfl s

/-- Settles O36 (R65): RDM and the row run one Phase 2, and end by its one outcome. -/
theorem itemIsRdmAndYield : Obligations.ItemIsRdmAndYield := by
  intro p s
  have hitem : exec (headerInstr p) s = runItem p.mt p.info s := exec_of_itemHeader (itemHeader_headerInstr p) s
  rw [hitem, runItem, exec, execRdm]
  rcases readMagnitude_planned (i := .rdm p.info) rfl s with ⟨r, -, hr⟩ | ⟨c, p2, -, -, hrun⟩
  · rw [hr s _ rfl, hr s _ rfl]
    exact ⟨fun _ h => h, fun t h => (by cases h)⟩
  · rw [hrun s _ rfl, hrun s _ rfl]
    refine ⟨fun _ h => (by cases h), fun t h => ?_⟩
    cases h
    exact ⟨p2.hdrYield p.mt, rfl, fun r h => Phase2.hdrYield_of_ok (Option.some.inj h),
      fun e h => Phase2.hdrYield_of_err (Option.some.inj h)⟩

end Sys2Proof.Proofs
end

section
/-! SUPPORT. The Callers' moves, each said once: what stands before a command can be issued, and what every step can do. -/

namespace Sys2Proof.Machine

/-! ### What no command looks at -/

/-- The state with this on the result port of the acting Codec, and this in progress. -/
def withPort (r : Option Result) (f : Option InFlight) (s : State) : State :=
  { s with inst := { s.inst with result := r, inFlight := f } }

theorem Touch.run_withPort (c : Touch) (r : Option Result) (f : Option InFlight) (s : State) :
    c.run (withPort r f s) = withPort r f (c.run s) := by cases c <;> rfl

/-- Every end writes the result port anew, and leaves nothing in progress. -/
theorem Ending.run_withPort (e : Ending) (r : Option Result) (f : Option InFlight) (s : State) :
    e.run (withPort r f s) = e.run s := by cases e <;> rfl

theorem exec_withPort (i : Instr) (r : Option Result) (f : Option InFlight) (s : State) :
    exec i (withPort r f s) = exec i s := by
  rcases exec_planned i s with ⟨r', -, hr⟩ | ⟨c, e, -, -, hrun⟩
  · rw [hr s (.refl i s), hr (withPort r f s) (.of_eq rfl rfl)]
  · rw [hrun s (.refl i s), hrun (withPort r f s) (.of_eq rfl rfl), Touch.run_withPort, Ending.run_withPort]

/-- The state with this record of what is due. -/
def withDue (d : List DueRdm) (s : State) : State := { s with due := d }

theorem Touch.run_withDue (c : Touch) (d : List DueRdm) (s : State) : c.run (withDue d s) = withDue d (c.run s) := by
  cases c <;> rfl

/-- An end changes the record, and nothing else by it. -/
theorem Ending.run_withDue (e : Ending) (d : List DueRdm) (s : State) :
    e.run (withDue d s) = withDue (e.run (withDue d s)).due (e.run s) := by cases e <;> rfl

/-- A command goes on, or is refused, in the same way whatever RDMs are due. -/
theorem exec_withDue (i : Instr) (d : List DueRdm) (s : State) :
    (∀ t, exec i s = .next t → ∃ d', exec i (withDue d s) = .next (withDue d' t)) ∧
      ∀ r, exec i s = .refused r → exec i (withDue d s) = .refused r := by
  rcases exec_planned i s with ⟨r, -, hr⟩ | ⟨c, e, -, -, hrun⟩
  · rw [hr s (.refl i s), hr (withDue d s) (.of_eq rfl rfl)]
    exact ⟨fun t h => (by cases h), fun _ h => h⟩
  · rw [hrun s (.refl i s), hrun (withDue d s) (.of_eq rfl rfl), Touch.run_withDue]
    refine ⟨fun t h => ?_, fun r h => (by cases h)⟩
    cases h
    exact ⟨_, congrArg Host.Outcome.next (Ending.run_withDue e d _)⟩

/-! ### The next move -/

theorem step_nil {s : State} (h : s.events = []) : step s = runNext s := by rw [step, h]; rfl

/-- The state with these moves to come. -/
def withEvents (es : List Event) (s : State) : State := { s with events := es }

theorem step_cons {s : State} {e : Event} {es : List Event} (h : s.events = e :: es) :
    step s = act e (withEvents es s) := by
  rw [step, h]
  rfl


/-! ### Before a command is issued -/

section NextIssue

variable {s : State} {l : Line} {i : Instr}

/-- The moves that come after are not looked at. -/
theorem nextIssue_withEvents (es : List Event) (s : State) : nextIssue (withEvents es s) = nextIssue s := rfl

theorem nextIssue_busy {f : InFlight} (h : s.inst.inFlight = some f) : nextIssue s = .refused .instanceBusy := by
  rw [nextIssue, h]

theorem nextIssue_ended (hidle : s.inst.inFlight = none) (h : s.inst.program[s.inst.k]? = none) : nextIssue s = .ended := by
  simp [nextIssue, hidle, h]

theorem nextIssue_unresolved {r : Refusal} (hidle : s.inst.inFlight = none) (hl : s.inst.program[s.inst.k]? = some l)
    (hi : resolve l.op s.inst = .error r) : nextIssue s = .refused r := by
  simp [nextIssue, hidle, hl, hi]

theorem nextIssue_overlap (hidle : s.inst.inFlight = none) (hl : s.inst.program[s.inst.k]? = some l)
    (hi : resolve l.op s.inst = .ok i) (ho : overlaps i l s = true) : nextIssue s = .refused .streamOverlap := by
  simp [nextIssue, hidle, hl, hi, ho]

theorem nextIssue_ready (hidle : s.inst.inFlight = none) (hl : s.inst.program[s.inst.k]? = some l)
    (hi : resolve l.op s.inst = .ok i) (ho : overlaps i l s = false) : nextIssue s = .ready i l := by
  simp [nextIssue, hidle, hl, hi, ho]

/-- What stands before a command can be issued. -/
theorem nextIssue_eq_ready_iff : nextIssue s = .ready i l ↔
    s.inst.inFlight = none ∧ s.inst.program[s.inst.k]? = some l ∧ resolve l.op s.inst = .ok i ∧ overlaps i l s = false := by
  constructor
  · intro h
    rcases hidle : s.inst.inFlight with _ | f
    case some => rw [nextIssue_busy hidle] at h; cases h
    rcases hl : s.inst.program[s.inst.k]? with _ | l'
    case none => rw [nextIssue_ended hidle hl] at h; cases h
    rcases hi : resolve l'.op s.inst with r | i'
    case error => rw [nextIssue_unresolved hidle hl hi] at h; cases h
    rcases ho : overlaps i' l' s
    case true => rw [nextIssue_overlap hidle hl hi ho] at h; cases h
    rw [nextIssue_ready hidle hl hi ho] at h
    cases h
    exact ⟨rfl, rfl, hi, ho⟩
  · rintro ⟨hidle, hl, hi, ho⟩
    exact nextIssue_ready hidle hl hi ho

end NextIssue

/-! ### Resolving a line (R61, R64, R65) -/

theorem resolve_word {w : CommandWord} {mag : Int} {i : Instr} (c : Codec) (h : decodeCommand w mag = .ok i) :
    resolve (.word w mag) c = .ok i := by simp [resolve, resolveAt, h]

theorem resolve_word_error {w v : CommandWord} {mag : Int} (c : Codec) (h : decodeCommand w mag = .error (.mustBeZero v)) :
    resolve (.word w mag) c = .error (.mustBeZero v) := by simp [resolve, resolveAt, h]

theorem resolve_hdr (c : Codec) : resolve .hdr c = .ok .rdh := rfl

theorem phase1At_eq_some_iff {rs : List Result} {n : Nat} {p : Phase1} :
    phase1At rs n = some p ↔ rs[n]? = some (.ok (.phase1 p)) := by
  unfold phase1At
  split
  · next h => simp [h]
  · next h => simpa using h p

theorem phase1At_eq_none {rs : List Result} {n : Nat} (h : ∀ p, rs[n]? ≠ some (.ok (.phase1 p))) :
    phase1At rs n = none := by
  rw [Option.eq_none_iff_forall_ne_some]
  exact fun p hp => h p (phase1At_eq_some_iff.mp hp)

theorem resolve_rdmAt {c : Codec} {n : Nat} {p : Phase1} (h : c.results[n]? = some (.ok (.phase1 p))) :
    resolve (.rdmAt n) c = .ok (.rdm p.info) := by
  simp [resolve, resolveAt, phase1At_eq_some_iff.mpr h]

theorem resolve_rdmAt_none {c : Codec} {n : Nat} (h : ∀ p, c.results[n]? ≠ some (.ok (.phase1 p))) :
    resolve (.rdmAt n) c = .error (.unresolvedInfo n) := by
  simp [resolve, resolveAt, phase1At_eq_none h]

theorem resolve_hdrRest {c : Codec} {n : Nat} {p : Phase1} (hk : c.k = n + 1)
    (h : c.results[n]? = some (.ok (.phase1 p))) : resolve .hdrRest c = .ok (headerInstr p) := by
  simp [resolve, resolveAt, hk, phase1At_eq_some_iff.mpr h]

theorem resolve_hdrRest_none {c : Codec} {n : Nat} (hk : c.k = n + 1) (h : ∀ p, c.results[n]? ≠ some (.ok (.phase1 p))) :
    resolve .hdrRest c = .error (.unresolvedInfo n) := by
  simp [resolve, resolveAt, hk, phase1At_eq_none h]

theorem resolve_hdrRest_zero {c : Codec} (hk : c.k = 0) : resolve .hdrRest c = .error (.unresolvedInfo 0) := by
  rw [resolve, hk, resolveAt]

/-- What a line resolves to is well formed. -/
theorem resolve_wellFormed {op : LineOp} {c : Codec} {i : Instr} (h : resolve op c = .ok i) : i.wellFormed = true := by
  cases op with
  | word w mag =>
    rcases hw : decodeCommand w mag with ⟨⟨v⟩⟩ | i'
    · rw [resolve_word_error c hw] at h
      cases h
    · rw [resolve_word c hw] at h
      cases h
      exact (CommandRow.of_decode hw).wellFormed
  | rdmAt n =>
    by_cases hp : ∃ p, c.results[n]? = some (.ok (.phase1 p))
    · obtain ⟨p, hp⟩ := hp
      rw [resolve_rdmAt hp] at h
      cases h
      rfl
    · rw [resolve_rdmAt_none (not_exists.mp hp)] at h
      cases h
  | hdr =>
    cases h
    rfl
  | hdrRest =>
    rcases hk : c.k with _ | n
    · rw [resolve_hdrRest_zero hk] at h
      cases h
    · by_cases hp : ∃ p, c.results[n]? = some (.ok (.phase1 p))
      · obtain ⟨p, hp⟩ := hp
        rw [resolve_hdrRest hk hp] at h
        cases h
        exact headerInstr_wellFormed p
      · rw [resolve_hdrRest_none hk (not_exists.mp hp)] at h
        cases h

/-! ### Running a line -/

section RunLine

variable {i : Instr} {l : Line} {s : State}

theorem runLine_of_ne_hdr (h : l.op ≠ .hdr) : runLine i l s = exec i (bindLine l s) := by
  rw [runLine]
  split <;> simp_all

/-- What a line's run can do: its command returns, and for an HDR the error is noted or the header byte's instruction runs. -/
theorem runLine_next {t : State} (h : runLine i l s = .next t) :
    ∃ u, exec i (bindLine l s) = .next u ∧
      (t = u ∨ l.op = .hdr ∧ (t = noteHdrError u ∨
        ∃ p, u.inst.result = some (.ok (.phase1 p)) ∧ exec (headerInstr p) u = .next t)) := by
  unfold runLine at h
  split at h
  · next u hu =>
    refine ⟨u, hu, ?_⟩
    split_ifs at h with hop
    · unfold continueHdr at h
      split at h
      · next p hp =>
        split_ifs at h
        · exact .inr ⟨hop, .inr ⟨p, hp, h⟩⟩
        · cases h
          exact .inl rfl
      · cases h
        exact .inr ⟨hop, .inl rfl⟩
    · cases h
      exact .inl rfl
  · cases h
  · cases h

end RunLine

/-! ### Everything a step can do -/

/-- One move, and where it goes on. -/
inductive Moved (s : State) : Event → State → Prop where
  | ran {i l t} : nextIssue s = .ready i l → runLine i l s = .next t → Moved s .run t
  | issued {i l} : nextIssue s = .ready i l → Moved s .issue (withPort none (some ⟨i, l⟩) s)
  | finished {f u} : s.inst.inFlight = some f → exec f.instr (bindLine f.line s) = .next u →
      Moved s .finish (if f.line.op = .hdr then noteHdrError u else u)
  | reset : Moved s .reset (resetCodec s)
  | turned {n c} : s.others[n]? = some c → Moved s (.switchTo n) { s with inst := c, others := s.others.set n s.inst }

theorem act_next {e : Event} {s t : State} (h : act e s = .next t) : Moved s e t := by
  cases e with
  | run =>
    change runNext s = .next t at h
    unfold runNext at h
    split at h
    · next hi => exact .ran hi h
    all_goals cases h
  | issue =>
    change issueNext s = .next t at h
    unfold issueNext at h
    split at h
    · next hi =>
      cases h
      exact .issued hi
    all_goals cases h
  | finish =>
    change finishCommand s = .next t at h
    unfold finishCommand at h
    split at h
    · cases h
    · next f hf =>
      split at h
      · next hu =>
        cases h
        exact .finished hf hu
      all_goals cases h
  | reset =>
    cases h
    exact .reset
  | switchTo n =>
    change switchTo n s = .next t at h
    unfold switchTo at h
    split at h
    · cases h
    · next hc =>
      cases h
      exact .turned hc

/-- A step takes the next move off the list, or a run where none is listed, and makes it. -/
theorem step_next {s t : State} (h : step s = .next t) :
    Moved (withEvents s.events.tail s) (s.events.head?.getD .run) t := by
  rcases hes : s.events with _ | ⟨e, es⟩
  · rw [step, hes] at h
    have hs : withEvents [] s = s := by rw [← hes]; rfl
    rw [List.tail_nil, hs]
    exact act_next h
  · rw [step, hes] at h
    exact act_next h

end Sys2Proof.Machine
end

section
/-! SUPPORT. What every step keeps: the other Codecs and the streams; the invariant of every Codec; commands in progress apart. -/

namespace Sys2Proof.Machine

/-! ### A command abandoned by reset (R120) -/

theorem usesSource_of_readLength {i : Instr} (h : readLength i ≠ 0) : usesSource i = true := by
  unfold readLength at h
  unfold usesSource
  split_ifs at h with hi
  · simp [hi]
  · rcases hr : readInfo i with _ | info
    · simp [hr] at h
    · simp

theorem writeBytes_of_not_usesSink {i : Instr} (h : usesSink i = false) : writeBytes i = [] := by
  cases i with
  | enc mt m => cases h
  | _ => rfl

theorem abandonWrite_sinks (i : Instr) (s : State) : SinksTouched i s (abandonWrite (writeBytes i) s) := by
  unfold abandonWrite
  split
  · exact .of_eq rfl rfl
  · next k hk =>
    rcases hi : usesSink i
    · refine .of_eq ?_ rfl
      obtain ⟨hlt, hget⟩ := List.getElem?_eq_some_iff.mp hk
      simp [writeBytes_of_not_usesSink hi, ← hget, List.set_getElem_self hlt]
    · exact .of_set hi hk rfl rfl rfl

theorem abandonRead_sources (i : Instr) (s : State) : SourcesTouched i s (abandonRead (readLength i) s) := by
  unfold abandonRead
  split_ifs with hn
  · exact .of_eq rfl rfl
  · split
    · exact .of_eq rfl rfl
    · next q hq => exact .of_set (usesSource_of_readLength hn) hq rfl rfl (draw_le _ _) rfl

/-- What the abandoned write leaves alone. -/
theorem abandonWrite_rest (bs : List Byte) (s : State) : KeepsCaller s (abandonWrite bs s) ∧
    (abandonWrite bs s).inst = s.inst ∧ (abandonWrite bs s).sources = s.sources ∧ (abandonWrite bs s).due = s.due := by
  unfold abandonWrite
  split <;> exact ⟨⟨rfl, rfl, rfl, rfl, rfl, rfl⟩, rfl, rfl, rfl⟩

/-- What the abandoned read leaves alone; if it is one, no RDM is due on the Source (R124). -/
theorem abandonRead_rest (n : Nat) (s : State) : KeepsCaller s (abandonRead n s) ∧
    (abandonRead n s).inst = s.inst ∧ (abandonRead n s).sinks = s.sinks ∧
    (abandonRead n s).due = if n = 0 then s.due else (settle s).due := by
  unfold abandonRead
  split_ifs
  · exact ⟨⟨rfl, rfl, rfl, rfl, rfl, rfl⟩, rfl, rfl, rfl⟩
  · split <;> exact ⟨⟨rfl, rfl, rfl, rfl, rfl, rfl⟩, rfl, rfl, rfl⟩

/-- What a reset leaves alone, and what it does to what is due. -/
theorem abandon_rest (f : InFlight) (s : State) : KeepsCaller (bindLine f.line s) (abandon f s) ∧
    (abandon f s).inst = s.inst ∧
    (abandon f s).due = if readLength f.instr = 0 then s.due else s.due.filter fun e => e.source != f.line.source := by
  obtain ⟨hw, hwinst, -, hwdue⟩ := abandonWrite_rest (writeBytes f.instr) (bindLine f.line s)
  obtain ⟨hr, hrinst, -, hrdue⟩ := abandonRead_rest (readLength f.instr) (abandonWrite (writeBytes f.instr) (bindLine f.line s))
  refine ⟨⟨hr.id.trans hw.id, hr.program.trans hw.program, hr.others.trans hw.others, hr.events.trans hw.events,
    hr.boundSink.trans hw.boundSink, hr.boundSource.trans hw.boundSource⟩, hrinst.trans hwinst, ?_⟩
  rw [abandon, hrdue, settle, hw.boundSource, hwdue]
  rfl

theorem abandon_sinks (f : InFlight) (s : State) : SinksTouched f.instr (bindLine f.line s) (abandon f s) := by
  obtain ⟨hr, -, hsinks, -⟩ := abandonRead_rest (readLength f.instr) (abandonWrite (writeBytes f.instr) (bindLine f.line s))
  exact (abandonWrite_sinks f.instr _).trans_eq hsinks hr.boundSink

theorem abandon_sources (f : InFlight) (s : State) : SourcesTouched f.instr (bindLine f.line s) (abandon f s) := by
  obtain ⟨hw, -, hsources, -⟩ := abandonWrite_rest (writeBytes f.instr) (bindLine f.line s)
  exact (abandonRead_sources f.instr _).eq_trans hsources hw.boundSource

/-! ### The other Codecs, and the streams -/

/-- The Sinks of t hold what those of s held and maybe more, and its Sources have lost at most something from their fronts. -/
structure StreamsMoved (s t : State) : Prop where
  sinksLength : t.sinks.length = s.sinks.length
  sourcesLength : t.sources.length = s.sources.length
  sinks : ∀ (j : Nat) (k : Sink), s.sinks[j]? = some k → ∃ k', t.sinks[j]? = some k' ∧ k.bytes <+: k'.bytes
  sources : ∀ (j : Nat) (q : Source), s.sources[j]? = some q → ∃ q', t.sources[j]? = some q' ∧ q'.bytes <:+ q.bytes

theorem StreamsMoved.of_eq {s t : State} (hk : t.sinks = s.sinks) (hq : t.sources = s.sources) : StreamsMoved s t where
  sinksLength := by rw [hk]
  sourcesLength := by rw [hq]
  sinks := fun j k h => ⟨k, by rw [hk, h], List.prefix_refl _⟩
  sources := fun j q h => ⟨q, by rw [hq, h], List.suffix_refl _⟩

theorem StreamsMoved.trans {s t u : State} (h : StreamsMoved s t) (h' : StreamsMoved t u) : StreamsMoved s u where
  sinksLength := h'.sinksLength.trans h.sinksLength
  sourcesLength := h'.sourcesLength.trans h.sourcesLength
  sinks := fun j k hk => by
    obtain ⟨k', hk', hle⟩ := h.sinks j k hk
    obtain ⟨k'', hk'', hle'⟩ := h'.sinks j k' hk'
    exact ⟨k'', hk'', hle.trans hle'⟩
  sources := fun j q hq => by
    obtain ⟨q', hq', hle⟩ := h.sources j q hq
    obtain ⟨q'', hq'', hle'⟩ := h'.sources j q' hq'
    exact ⟨q'', hq'', hle'.trans hle⟩

theorem StreamsMoved.of_touched {i : Instr} {s t : State} (hc : KeepsCaller s t) (hk : SinksTouched i s t)
    (hq : SourcesTouched i s t) : StreamsMoved s t where
  sinksLength := hk.others.1
  sourcesLength := hq.others.1
  sinks := fun j k h => by
    by_cases hj : j = s.boundSink
    · subst hj
      obtain ⟨k', n, hk', hbytes⟩ := hk.bound k h
      rw [State.sink?, hc.boundSink] at hk'
      exact ⟨k', hk', hbytes ▸ List.prefix_append _ _⟩
    · exact ⟨k, (hk.others.2 j hj).trans h, List.prefix_refl _⟩
  sources := fun j q h => by
    by_cases hj : j = s.boundSource
    · subst hj
      obtain ⟨q', n, hq', -, hbytes⟩ := hq.bound q h
      rw [State.source?, hc.boundSource] at hq'
      exact ⟨q', hq', hbytes ▸ List.drop_suffix _ _⟩
    · exact ⟨q, (hq.others.2 j hj).trans h, List.suffix_refl _⟩

/-- t has the other Codecs of s, and the acting one's program and number, and the streams have moved on. -/
structure Frame (s t : State) : Prop where
  others : t.others = s.others
  program : t.inst.program = s.inst.program
  id : t.inst.id = s.inst.id
  streams : StreamsMoved s t

theorem Frame.of_eq {s t : State} (ho : t.others = s.others) (hp : t.inst.program = s.inst.program)
    (hid : t.inst.id = s.inst.id) (hk : t.sinks = s.sinks) (hq : t.sources = s.sources) : Frame s t :=
  ⟨ho, hp, hid, .of_eq hk hq⟩

theorem Frame.trans {s t u : State} (h : Frame s t) (h' : Frame t u) : Frame s u :=
  ⟨h'.others.trans h.others, h'.program.trans h.program, h'.id.trans h.id, h.streams.trans h'.streams⟩

theorem Frame.of_touched {i : Instr} {s t : State} (hc : KeepsCaller s t) (hk : SinksTouched i s t)
    (hq : SourcesTouched i s t) : Frame s t := ⟨hc.others, hc.program, hc.id, .of_touched hc hk hq⟩

theorem exec_frame {i : Instr} {s t : State} (h : exec i s = .next t) : Frame s t :=
  .of_touched (exec_keepsCaller h) (exec_sinks h) (exec_sources h)

theorem bindLine_frame (l : Line) (s : State) : Frame s (bindLine l s) := .of_eq rfl rfl rfl rfl rfl

theorem noteHdrError_eq_or (s : State) :
    noteHdrError s = s ∨ ∃ e, s.inst.result = some (.err e) ∧ noteHdrError s = yieldHdr (.error e) s := by
  unfold noteHdrError
  split
  · next e he => exact .inr ⟨e, he, rfl⟩
  · exact .inl rfl

theorem noteHdrError_frame (s : State) : Frame s (noteHdrError s) := by
  rcases noteHdrError_eq_or s with h | ⟨e, -, h⟩ <;> rw [h] <;> exact .of_eq rfl rfl rfl rfl rfl

theorem runLine_frame {i : Instr} {l : Line} {s t : State} (h : runLine i l s = .next t) : Frame s t := by
  obtain ⟨u, hu, hcase⟩ := runLine_next h
  have hfirst := (bindLine_frame l s).trans (exec_frame hu)
  rcases hcase with rfl | ⟨-, rfl | ⟨p, -, hrest⟩⟩
  · exact hfirst
  · exact hfirst.trans (noteHdrError_frame u)
  · exact hfirst.trans (exec_frame hrest)

theorem resetCodec_idle {s : State} (h : s.inst.inFlight = none) : resetCodec s = withPort none none s := by
  rw [resetCodec, h]
  rfl

theorem resetCodec_busy {s : State} {f : InFlight} (h : s.inst.inFlight = some f) :
    resetCodec s = withPort none none (abandon f s) := by
  rw [resetCodec, h]
  rfl

theorem withPort_frame (r : Option Result) (f : Option InFlight) (s : State) : Frame s (withPort r f s) :=
  .of_eq rfl rfl rfl rfl rfl

theorem resetCodec_frame (s : State) : Frame s (resetCodec s) := by
  rcases h : s.inst.inFlight with _ | f
  · rw [resetCodec_idle h]
    exact withPort_frame none none s
  · rw [resetCodec_busy h]
    have habandon := Frame.of_touched (abandon_rest f s).1 (abandon_sinks f s) (abandon_sources f s)
    exact ((bindLine_frame f.line s).trans habandon).trans (withPort_frame none none _)

/-- Every move but a turn to another Codec. -/
theorem Moved.frame {s t : State} {e : Event} (h : Moved s e t) (he : ∀ n, e ≠ .switchTo n) : Frame s t := by
  cases h with
  | ran _ hrun => exact runLine_frame hrun
  | issued _ => exact withPort_frame none _ s
  | @finished f u _ hexec =>
    have hfirst := (bindLine_frame f.line s).trans (exec_frame hexec)
    split_ifs
    · exact hfirst.trans (noteHdrError_frame u)
    · exact hfirst
  | reset => exact resetCodec_frame s
  | turned _ => exact absurd rfl (he _)

theorem Moved.streams {s t : State} {e : Event} (h : Moved s e t) : StreamsMoved s t := by
  by_cases he : ∃ n, e = .switchTo n
  · obtain ⟨n, rfl⟩ := he
    cases h with
    | turned _ => exact .of_eq rfl rfl
  · exact (h.frame fun n hn => he ⟨n, hn⟩).streams

/-- A turn to another Codec rearranges the Codecs. -/
theorem turned_perm {α : Type} {a c : α} {l : List α} {n : Nat} (h : l[n]? = some c) : (c :: l.set n a).Perm (a :: l) := by
  obtain ⟨hn, rfl⟩ := List.getElem?_eq_some_iff.mp h
  exact ((List.set_perm_cons_eraseIdx hn a).cons _).trans
    ((List.Perm.swap _ _ _).trans ((List.getElem_cons_eraseIdx_perm hn).cons a))

/-! ### The invariant of the Codecs (R15, R30, R131) -/

theorem HdrYield.legal_error {e : ErrorKind} (h : (HdrYield.error e).legal) : e.legal := by
  cases e with
  | reservedAdditionalInfo info => exact h
  | sourceFault => trivial
  | _ => exact h.elim

theorem Phase2.legal.result {p : Phase2} (h : p.legal) : p.result.legal := by
  cases p with
  | got r => trivial
  | failed e => exact HdrYield.legal_error (h .unsignedInteger)

theorem Ending.Fits.result {i : Instr} {e : Ending} (h : e.Fits i) : e.result.legal := by
  cases e with
  | returned r => exact h.2
  | rdhFailed => trivial
  | rdhSplit hb => trivial
  | rdm p => exact h.2.result
  | item mt p => exact h.2.result

theorem Ending.Fits.yields {i : Instr} {e : Ending} (h : e.Fits i) : ∀ y ∈ e.yields, y.legal := by
  cases e with
  | item mt p =>
    intro y hy
    rw [List.mem_singleton.mp hy]
    exact h.2 mt
  | _ => exact fun y hy => absurd hy List.not_mem_nil

/-- A command that goes on leaves the acting Codec with one legal result more, and idle. -/
theorem exec_codecInv {i : Instr} {s t : State} (h : exec i s = .next t) (hs : s.inst.Inv) : t.inst.Inv := by
  obtain ⟨c, e, -, he, rfl⟩ := exec_next h
  have hidle := Ending.run_inst_inFlight e (c.run s)
  constructor
  case counted => simp [hs.counted]
  case legal => simpa [or_imp, forall_and] using ⟨hs.legal, he.result⟩
  case yields => simpa [or_imp, forall_and] using ⟨hs.yields, he.yields⟩
  case port => simp
  all_goals exact fun f hf => absurd (hidle.symm.trans hf) (by simp)

section Inv

variable {s t : State}

/-- The invariant, where the other Codecs are as before. -/
theorem State.Inv.of_codec (hs : s.Inv) (hinst : t.inst.Inv) (hothers : t.others = s.others) (hid : t.inst.id = s.inst.id)
    (hdue : t.due.Pairwise fun a b => a.source < b.source) : t.Inv where
  inst := hinst
  others := hothers ▸ hs.others
  distinct := by
    have hd := hs.distinct
    rw [List.pairwise_cons] at hd ⊢
    rwa [hothers, hid]
  due := hdue

theorem exec_inv {i : Instr} (h : exec i s = .next t) (hs : s.Inv) : t.Inv :=
  have hc := exec_keepsCaller h
  hs.of_codec (exec_codecInv h hs.inst) hc.others hc.id (exec_due_sorted h hs.due)

theorem bindLine_inv (l : Line) (hs : s.Inv) : (bindLine l s).Inv := ⟨hs.inst, hs.others, hs.distinct, hs.due⟩

/-- RDH returns SourceFault or a split header byte. -/
theorem rdh_result (h : exec .rdh s = .next t) :
    t.inst.result = some (.err .sourceFault) ∨ ∃ p, t.inst.result = some (.ok (.phase1 p)) := by
  rcases exec_due h with ⟨hno, -⟩ | ⟨hno | ⟨-, hr⟩, -⟩ | ⟨-, p, hp, -⟩
  · cases hno
  · cases hno
  · exact .inl hr
  · exact .inr ⟨p, hp⟩

/-- The error that an HDR notes is its RDH's. -/
theorem noteHdrError_inv (h : exec .rdh s = .next t) (ht : t.Inv) : (noteHdrError t).Inv := by
  rcases noteHdrError_eq_or t with hn | ⟨e, he, hn⟩ <;> rw [hn]
  · exact ht
  · have hfault : e = .sourceFault := by
      rcases rdh_result h with hr | ⟨p, hr⟩ <;> rw [hr] at he <;> cases he
      rfl
    subst hfault
    refine ht.of_codec ⟨ht.inst.counted, ht.inst.legal, ?_, ht.inst.port, ht.inst.busy, ht.inst.formed, ht.inst.hdrLine⟩ rfl
      rfl ht.due
    simpa [or_imp, forall_and, HdrYield.legal] using ht.inst.yields

theorem runLine_inv {i : Instr} {l : Line} (hhdr : l.op = .hdr → i = .rdh) (h : runLine i l s = .next t) (hs : s.Inv) :
    t.Inv := by
  obtain ⟨u, hu, hcase⟩ := runLine_next h
  have hinv := exec_inv hu (bindLine_inv l hs)
  rcases hcase with rfl | ⟨hop, rfl | ⟨p, -, hrest⟩⟩
  · exact hinv
  · have hrdh := hhdr hop
    subst hrdh
    exact noteHdrError_inv hu hinv
  · exact exec_inv hrest hinv

/-- The line of an HDR issues an RDH. -/
theorem nextIssue_hdr {i : Instr} {l : Line} (h : nextIssue s = .ready i l) (hop : l.op = .hdr) : i = .rdh := by
  obtain ⟨-, -, hi, -⟩ := nextIssue_eq_ready_iff.mp h
  rw [hop, resolve_hdr] at hi
  cases hi
  rfl

/-- The invariant of a Codec with nothing on its port. -/
theorem Codec.Inv.withPort {c : Codec} {f : Option InFlight} (h : c.Inv) (hformed : ∀ g, f = some g → g.instr.wellFormed = true)
    (hhdr : ∀ g, f = some g → g.line.op = .hdr → g.instr = .rdh) : Codec.Inv { c with result := none, inFlight := f } :=
  ⟨h.counted, h.legal, h.yields, by simp, fun _ _ => rfl, hformed, hhdr⟩

/-- A Codec after reset has returned nothing. -/
theorem Codec.reset_inv : Codec.reset.Inv := by constructor <;> simp [Codec.reset]

theorem resetCodec_inv (hs : s.Inv) : (resetCodec s).Inv := by
  rcases h : s.inst.inFlight with _ | f
  · rw [resetCodec_idle h]
    exact hs.of_codec (hs.inst.withPort (by simp) (by simp)) rfl rfl hs.due
  · obtain ⟨hc, hinst, hdue⟩ := abandon_rest f s
    rw [resetCodec_busy h]
    refine hs.of_codec (Codec.Inv.withPort (hinst ▸ hs.inst) (by simp) (by simp)) hc.others hc.id ?_
    simp only [withPort, hdue]
    split_ifs
    · exact hs.due
    · exact hs.due.filter _

theorem Moved.inv {e : Event} (h : Moved s e t) (hs : s.Inv) : t.Inv := by
  cases h with
  | ran hready hrun => exact runLine_inv (nextIssue_hdr hready) hrun hs
  | @issued i l hready =>
    obtain ⟨-, -, hi, -⟩ := nextIssue_eq_ready_iff.mp hready
    refine hs.of_codec (hs.inst.withPort ?_ ?_) rfl rfl hs.due
    · rintro _ ⟨⟩
      exact resolve_wellFormed hi
    · rintro _ ⟨⟩ hop
      exact nextIssue_hdr hready hop
  | @finished f u hf hexec =>
    have hinv := exec_inv hexec (bindLine_inv f.line hs)
    split_ifs with hop
    · rw [hs.inst.hdrLine f hf hop] at hexec
      exact noteHdrError_inv hexec hinv
    · exact hinv
  | reset => exact resetCodec_inv hs
  | @turned n c hc =>
    have hperm := turned_perm (a := s.inst) hc
    have hall : ∀ d ∈ s.inst :: s.others, d.Inv := List.forall_mem_cons.mpr ⟨hs.inst, hs.others⟩
    obtain ⟨hinst, hothers⟩ := List.forall_mem_cons.mp fun d hd => hall d (hperm.mem_iff.mp hd)
    exact ⟨hinst, hothers, (hperm.pairwise_iff fun h => h.symm).mpr hs.distinct, hs.due⟩

end Inv

/-! ### Commands in progress apart on their streams (R45) -/

section Exclusive

variable {s t : State}

theorem sharesStream_comm (f g : InFlight) : sharesStream f g.instr g.line = sharesStream g f.instr f.line := by
  simp only [sharesStream, Bool.and_comm (usesSink g.instr), Bool.and_comm (usesSource g.instr), Bool.beq_comm]

theorem Codec.apart.symm {c d : Codec} (h : c.apart d) : d.apart c := fun f g hf hg =>
  (sharesStream_comm f g).trans (h g f hg hf)

theorem exclusive_of_idle (hothers : t.others = s.others) (hidle : t.inst.inFlight = none) (hs : s.exclusive) : t.exclusive := by
  have hs' := (List.pairwise_cons.mp hs).2
  refine List.pairwise_cons.mpr ⟨fun d _ f g hf _ => ?_, hothers ▸ hs'⟩
  rw [hidle] at hf
  cases hf

theorem exec_idle {i : Instr} (h : exec i s = .next t) : t.inst.inFlight = none := by
  obtain ⟨r, hr⟩ := exec_returns h
  exact hr.idle

theorem noteHdrError_idle (h : s.inst.inFlight = none) : (noteHdrError s).inst.inFlight = none := by
  rcases noteHdrError_eq_or s with hn | ⟨e, -, hn⟩ <;> rw [hn]
  · exact h
  · exact h

theorem runLine_idle {i : Instr} {l : Line} (h : runLine i l s = .next t) : t.inst.inFlight = none := by
  obtain ⟨u, hu, rfl | ⟨-, rfl | ⟨p, -, hrest⟩⟩⟩ := runLine_next h
  · exact exec_idle hu
  · exact noteHdrError_idle (exec_idle hu)
  · exact exec_idle hrest

theorem resetCodec_inFlight (s : State) : (resetCodec s).inst.inFlight = none := rfl

/-- A command that overlaps no other Codec's is apart from each of them. -/
theorem apart_of_not_overlaps {i : Instr} {l : Line} (h : overlaps i l s = false) {d : Codec} (hd : d ∈ s.others) (c : Codec) :
    Codec.apart { c with result := none, inFlight := some ⟨i, l⟩ } d := by
  rintro f g ⟨⟩ hg
  have hapart := List.any_eq_false.mp h d hd
  rw [hg] at hapart
  rw [sharesStream_comm]
  simpa using hapart

theorem Moved.exclusive {e : Event} (h : Moved s e t) (hs : s.exclusive) : t.exclusive := by
  cases h with
  | ran _ hrun => exact exclusive_of_idle (runLine_frame hrun).others (runLine_idle hrun) hs
  | @issued i l hready =>
    obtain ⟨-, -, -, ho⟩ := nextIssue_eq_ready_iff.mp hready
    exact List.pairwise_cons.mpr ⟨fun d hd => apart_of_not_overlaps ho hd s.inst, (List.pairwise_cons.mp hs).2⟩
  | @finished f u hf hexec =>
    have hfirst := (exec_frame hexec).others
    split_ifs
    · exact exclusive_of_idle ((noteHdrError_frame u).others.trans hfirst) (noteHdrError_idle (exec_idle hexec)) hs
    · exact exclusive_of_idle hfirst (exec_idle hexec) hs
  | reset => exact exclusive_of_idle (resetCodec_frame s).others (resetCodec_inFlight s) hs
  | @turned n c hc => exact ((turned_perm hc).pairwise_iff fun h => Codec.apart.symm h).mpr hs

end Exclusive

end Sys2Proof.Machine
end

section
/-! PROOFS. The invariants of a step. -/

namespace Sys2Proof.Proofs

open Sys2Proof.Machine

/-- Settles O55 (R49, R118). -/
theorem stepKeepsTheOtherInstances : Obligations.StepKeepsTheOtherInstances := by
  intro s t h
  have hmove := step_next h
  constructor
  · intro hno
    have hframe := hmove.frame fun n hn => by
      rcases hhead : s.events.head? with _ | e
      · rw [hhead] at hn
        cases hn
      · rw [hhead] at hn
        exact hno n (hhead.trans (congrArg some hn))
    exact ⟨hframe.others, hframe.program, hframe.id⟩
  · intro n hn
    rw [hn] at hmove
    cases hmove with
    | turned hc => exact turned_perm hc

/-- Settles O56 (R33). -/
theorem stepAppendsToSinksAndConsumesSources : Obligations.StepAppendsToSinksAndConsumesSources := by
  intro s t h
  have hframe := (step_next h).streams
  exact ⟨hframe.sinksLength, hframe.sourcesLength, hframe.sinks, hframe.sources⟩

/-- Settles O57. -/
theorem stepKeepsInv : Obligations.StepKeepsInv := fun _ _ hs h =>
  (step_next h).inv ⟨hs.inst, hs.others, hs.distinct, hs.due⟩

/-- Settles O58 (R45). -/
theorem stepKeepsStreamsExclusive : Obligations.StepKeepsStreamsExclusive := fun s _ hs h =>
  (step_next h).exclusive (s := withEvents s.events.tail s) hs

/-- Settles O59 (R32). -/
theorem resetMeetsInvariants : Obligations.ResetMeetsInvariants :=
  ⟨⟨Codec.reset_inv, by simp [State.reset], List.pairwise_singleton _ _, List.Pairwise.nil⟩, List.pairwise_singleton _ _,
    rfl, rfl, rfl⟩

end Sys2Proof.Proofs
end

section
/-! SUPPORT. Running, issuing and finishing a line, each on the state it is found in; and the Caller's obligation (R124). -/

namespace Sys2Proof.Machine

/-! ### The next move, where it is known -/

theorem step_head {s : State} {e : Event} (h : s.events.head? = some e) : step s = act e (withEvents s.events.tail s) := by
  obtain ⟨es, hes⟩ := List.head?_eq_some_iff.mp h
  rw [step_cons hes, hes, List.tail_cons]

theorem step_run {s : State} (h : s.events = [] ∨ s.events.head? = some .run) :
    step s = runNext (withEvents s.events.tail s) := by
  rcases h with hes | hes
  · rw [step_nil hes, hes, List.tail_nil, ← hes]
    rfl
  · exact step_head hes

/-- A line that cannot be issued is refused, run or issued. -/
theorem step_refused {s : State} {r : Refusal}
    (hes : s.events = [] ∨ s.events.head? = some .run ∨ s.events.head? = some .issue) (h : nextIssue s = .refused r) :
    step s = .refused r := by
  rw [← or_assoc] at hes
  rw [← nextIssue_withEvents s.events.tail s] at h
  rcases hes with hes | hes
  · rw [step_run hes, runNext, h]
  · rw [step_head hes, act, issueNext, h]

/-! ### The three moves of a line -/

section Moves

variable {s : State} {l : Line} {i : Instr}

theorem runNext_ready (h : nextIssue s = .ready i l) : runNext s = runLine i l s := by rw [runNext, h]
theorem runNext_refused {r : Refusal} (h : nextIssue s = .refused r) : runNext s = .refused r := by rw [runNext, h]
theorem runNext_ended (h : nextIssue s = .ended) : runNext s = .fault .endOfProgram := by rw [runNext, h]

theorem issueNext_ready (h : nextIssue s = .ready i l) : issueNext s = .next (withPort none (some ⟨i, l⟩) s) := by
  rw [issueNext, h]
  rfl

theorem finishCommand_eq {f : InFlight} {u : State} (hf : s.inst.inFlight = some f)
    (h : exec f.instr (bindLine f.line s) = .next u) :
    finishCommand s = .next (if f.line.op = .hdr then noteHdrError u else u) := by
  rw [finishCommand, hf]
  simp only [h]

theorem noteHdrError_err {e : ErrorKind} (h : s.inst.result = some (.err e)) :
    noteHdrError s = yieldHdr (.error e) s := by rw [noteHdrError, h]

theorem noteHdrError_ok {p : Payload} (h : s.inst.result = some (.ok p)) : noteHdrError s = s := by rw [noteHdrError, h]

/-- An RDH that fails yields nothing by itself. -/
theorem rdh_fails_returns {s : State} (hf : SourceFails 1 s) :
    ∃ t, Returns .rdh s (.err .sourceFault) t ∧ t.inst.headers = s.inst.headers := by
  obtain ⟨u, j, hu, -, -, he⟩ := exec_rdh_fails hf
  exact ⟨_, .of_complete (u := settle u) he hu, exec_headers_of_not_item rfl he⟩

/-- A line of an HDR whose RDH failed (log entry 13). -/
theorem runLine_hdr_error {u : State} {e : ErrorKind} (hop : l.op = .hdr) (h : exec i (bindLine l s) = .next u)
    (hu : u.inst.result = some (.err e)) : runLine i l s = .next (yieldHdr (.error e) u) := by
  rw [runLine, h]
  simp only [if_pos hop]
  rw [continueHdr, hu]
  simp only [noteHdrError_err hu]

/-- A line of an HDR whose RDH split a header byte, with the HDR's second line next (log entry 2). -/
theorem runLine_hdr_split {u : State} {p : Phase1} (hop : l.op = .hdr) (h : exec i (bindLine l s) = .next u)
    (hu : u.inst.result = some (.ok (.phase1 p))) (hrest : u.inst.program[u.inst.k]? = some ⟨.hdrRest, l.sink, l.source⟩) :
    runLine i l s = exec (headerInstr p) u := by
  rw [runLine, h]
  simp only [if_pos hop]
  rw [continueHdr, hu]
  simp only [if_pos hrest]

/-- A command in progress finishes as it would have run: the port and the in-progress field are not looked at. -/
theorem finishCommand_issued {u : State} (h : exec i (bindLine l s) = .next u) :
    finishCommand (withPort none (some ⟨i, l⟩) s) = .next (if l.op = .hdr then noteHdrError u else u) :=
  finishCommand_eq (f := ⟨i, l⟩) rfl ((exec_withPort i none (some ⟨i, l⟩) (bindLine l s)).trans h)

end Moves

/-- The state after an RDH of this line that has split this header byte and left this Source, with these moves to come. -/
def afterRdh (l : Line) (hb : Byte) (q : Source) (es : List Event) (s : State) : State :=
  endRdh hb ((bindLine l (withEvents es s)).setSource q)

/-! ### Streams in use -/

/-- The two lines of an HDR use the same stream. -/
theorem overlaps_hdrRest {s t : State} (p : Phase1) (snk src : Nat) (h : t.others = s.others) :
    overlaps (headerInstr p) ⟨.hdrRest, snk, src⟩ t = overlaps .rdh ⟨.hdr, snk, src⟩ s := by
  have hrow := itemHeader_headerInstr p
  have hsource := usesSource_of_readInfo (readInfo_of_itemHeader hrow)
  have hshares : ∀ f, sharesStream f (headerInstr p) ⟨.hdrRest, snk, src⟩ = sharesStream f .rdh ⟨.hdr, snk, src⟩ := by
    intro f
    rw [sharesStream, usesSink_of_itemHeader hrow, hsource]
    rfl
  simp only [overlaps, h, hshares]

theorem overlaps_of_shares {s : State} {i : Instr} {l : Line} {c : Codec} {f : InFlight} (hc : c ∈ s.others)
    (hf : c.inFlight = some f)
    (h : usesSink f.instr = true ∧ usesSink i = true ∧ f.line.sink = l.sink ∨
      usesSource f.instr = true ∧ usesSource i = true ∧ f.line.source = l.source) : overlaps i l s = true := by
  refine List.any_eq_true.mpr ⟨c, hc, ?_⟩
  rw [hf]
  rcases h with ⟨hu, hu', hs⟩ | ⟨hu, hu', hs⟩ <;> simp [sharesStream, hu, hu', hs]

/-! ### The Caller's two-phase obligation (R124) -/

section TwoPhase

variable {u : State} {source : Nat} {item : Option Nat} {info : AdditionalInfo}

/-- An RDM meets the obligation if it is due: on its Source, read by its Codec, with its info, and by the line it names. -/
theorem twoPhaseOk_iff (h : NextRdm u source item info) : u.twoPhaseOk = true ↔
    ∃ e ∈ u.due, e.source = source ∧ e.owner = u.inst.id ∧ e.info = info ∧ ∀ n, item = some n → n = e.line := by
  obtain ⟨l, i, hl, rfl, rfl, hres, hread⟩ := h
  simp only [State.twoPhaseOk, hl, hres, hread, List.any_eq_true, DueRdm.matches, Bool.and_eq_true, beq_iff_eq, and_assoc,
    Option.all_eq_true]

theorem twoPhaseOk_of_unresolved {l : Line} {r : Refusal} (hl : u.inst.program[u.inst.k]? = some l)
    (h : resolve l.op u.inst = .error r) : u.twoPhaseOk = true := by simp only [State.twoPhaseOk, hl, h]

theorem not_twoPhaseOk (h : NextRdm u source item info) (hnone : ∀ e ∈ u.due, e.source ≠ source) :
    u.twoPhaseOk = false := by
  rw [← Bool.not_eq_true, twoPhaseOk_iff h]
  rintro ⟨e, he, hsource, -⟩
  exact hnone e he hsource

/-- After an RDH that returned, the RDM of that header byte is the one that meets the obligation. -/
theorem twoPhaseOk_after_rdh {s t : State} {p : Phase1} (h : exec .rdh s = .next t)
    (hp : t.inst.result = some (.ok (.phase1 p))) (hdue : u.due = t.due) (hu : NextRdm u s.boundSource item info) :
    u.twoPhaseOk = true ↔ u.inst.id = s.inst.id ∧ info = p.info ∧ ∀ n, item = some n → n = s.inst.k := by
  have hawait : t.due = (awaitRdm p.info s).due := by
    rcases exec_due h with ⟨hno, -⟩ | ⟨hno | ⟨-, hr⟩, -⟩ | ⟨-, p', hp', hd⟩
    · cases hno
    · cases hno
    · rw [hr] at hp
      cases hp
    · rw [hp'] at hp
      cases hp
      exact hd
  rw [twoPhaseOk_iff hu, hdue, hawait]
  simp only [mem_awaitRdm]
  constructor
  · rintro ⟨e, rfl | ⟨-, hne⟩, hsource, howner, hinfo, hline⟩
    · exact ⟨howner.symm, hinfo.symm, hline⟩
    · exact absurd hsource hne
  · rintro ⟨hid, rfl, hline⟩
    exact ⟨_, .inl rfl, rfl, hid.symm, rfl, hline⟩

/-- A command that ends the turn of an RDM settles its Source. -/
theorem exec_due_settled {i : Instr} {s t : State}
    (hi : (readInfo i).isSome = true ∨ i = .rdh ∧ t.inst.result = some (.err .sourceFault)) (h : exec i s = .next t) :
    t.due = (settle s).due := by
  rcases exec_due h with ⟨hno, -⟩ | ⟨-, hd⟩ | ⟨rfl, p, hp, -⟩
  · rcases hi with hi | ⟨rfl, -⟩
    · simp [usesSource, hi] at hno
    · cases hno
  · exact hd
  · rcases hi with hi | ⟨-, hr⟩
    · cases hi
    · rw [hr] at hp
      cases hp

/-- A run of an RDH's word is that RDH. -/
theorem runNext_rdh {s t : State} {mag : Int} {snk src : Nat}
    (hl : s.inst.program[s.inst.k]? = some ⟨.word 0xC000 mag, snk, src⟩)
    (h : runNext s = .next t) : exec .rdh (bindLine ⟨.word 0xC000 mag, snk, src⟩ s) = .next t := by
  cases act_next (e := .run) h with
  | ran hready hrun =>
    obtain ⟨-, hl', hi, -⟩ := nextIssue_eq_ready_iff.mp hready
    cases hl.symm.trans hl'
    rw [runLine_of_ne_hdr (by simp)] at hrun
    cases hi
    exact hrun

/-- `RDM @k.info` right after the RDH of line k meets the obligation; where that RDH failed, it is not issued. -/
theorem rdmAt_after_rdh_twoPhaseOk {s t : State} {mag : Int} {snk snk' src : Nat} (hinv : s.Inv)
    (hl : s.inst.program[s.inst.k]? = some ⟨.word 0xC000 mag, snk, src⟩)
    (hl' : s.inst.program[s.inst.k + 1]? = some ⟨.rdmAt s.inst.k, snk', src⟩) (h : runNext s = .next t) :
    t.twoPhaseOk = true := by
  have hrdh := runNext_rdh hl h
  obtain ⟨r, hr⟩ := exec_returns hrdh
  have hprogram : t.inst.program = s.inst.program := (exec_keepsCaller hrdh).program
  have hnext : t.inst.program[t.inst.k]? = some ⟨.rdmAt s.inst.k, snk', src⟩ := by
    rw [hprogram, hr.index]
    exact hl'
  have hkept : t.inst.results[s.inst.k]? = some r := by
    rw [hr.kept, bindLine_inst, ← hinv.inst.counted, List.getElem?_concat_length]
  rcases rdh_result hrdh with hfault | ⟨p, hp⟩
  · refine twoPhaseOk_of_unresolved hnext (resolve_rdmAt_none fun p => ?_)
    cases hr.port.symm.trans hfault
    rw [hkept]
    simp
  · cases hr.port.symm.trans hp
    have hitem : itemLine t.inst (.rdmAt s.inst.k) = some s.inst.k := by
      simp [itemLine, infoLine, hprogram, hl, isRdhLine]
    have hu : NextRdm t src (some s.inst.k) p.info := ⟨_, _, hnext, rfl, hitem, resolve_rdmAt hkept, rfl⟩
    refine (twoPhaseOk_after_rdh hrdh hp rfl hu).mpr ⟨(exec_keepsCaller hrdh).id, rfl, ?_⟩
    rintro n ⟨⟩
    rfl

end TwoPhase

end Sys2Proof.Machine
end

section
/-! PROOFS. The statements on steps (10_state.md, 20_memory.md, 70_reset_and_hazards.md). -/

namespace Sys2Proof.Proofs

open Sys2Proof.Machine

/-- Settles O40 (R62). -/
theorem legalCommandWords : Obligations.LegalCommandWords := by
  intro w mag
  refine ⟨⟨fun ⟨i, h⟩ => (CommandRow.of_decode h).masked, fun h => ?_⟩, fun s snk src hes hidle hl hno => ?_⟩
  · obtain ⟨i, hrow⟩ := exists_commandRow mag h
    exact ⟨i, hrow.decode⟩
  · rw [step_nil hes]
    exact runNext_refused (nextIssue_unresolved hidle hl (resolve_word_error _ (decodeCommand_of_not_ok hno)))

/-- Settles O45. -/
theorem stepRunsTheDecodedCommand : Obligations.StepRunsTheDecodedCommand := by
  intro s w mag snk src i hes hidle hl hi ho
  rw [step_nil hes, runNext_ready (nextIssue_ready hidle hl (resolve_word _ hi) ho), runLine_of_ne_hdr (by simp)]
  rfl

/-- Settles O46 (R65). -/
theorem stepRunsTheDecodedHeader : Obligations.StepRunsTheDecodedHeader := by
  intro s snk src hb rest hes hidle hl hl' ho hopen hbytes
  obtain ⟨t, hr, ht, -⟩ := rdh_returns (n := 0) hopen hbytes
  refine ⟨t, _, hr, ht, rfl, ?_⟩
  rw [step_nil hes, runNext_ready (nextIssue_ready hidle hl (resolve_hdr _) ho)]
  refine runLine_hdr_split rfl hr.next hr.port ?_
  rw [(exec_keepsCaller hr.next).program, hr.index]
  exact hl'

/-- Settles O47 (R65, R110). -/
theorem hdrYieldsTheRdhError : Obligations.HdrYieldsTheRdhError := by
  refine ⟨fun s snk src hes hidle hl ho hf => ?_, fun s snk src hes hidle hl ho => ?_, fun s snk src hes hbusy hf => ?_⟩
  · obtain ⟨t, hr, hheaders⟩ := rdh_fails_returns (s := bindLine ⟨.hdr, snk, src⟩ (withEvents s.events.tail s)) hf
    refine ⟨yieldHdr (.error .sourceFault) t, ?_, hr.port, hr.kept, hr.index, ?_⟩
    · rw [step_run hes, runNext_ready (s := withEvents s.events.tail s) (nextIssue_ready hidle hl (resolve_hdr _) ho)]
      exact runLine_hdr_error rfl hr.next hr.port
    · rw [yieldHdr_inst_headers, hheaders]
      rfl
  · exact ⟨_, (step_head hes).trans
      (issueNext_ready (s := withEvents s.events.tail s) (nextIssue_ready hidle hl (resolve_hdr _) ho)), rfl⟩
  · obtain ⟨t, hr, hheaders⟩ := rdh_fails_returns (s := bindLine ⟨.hdr, snk, src⟩ (withEvents s.events.tail s)) hf
    refine ⟨yieldHdr (.error .sourceFault) t, ?_, hr.port, hr.kept, hr.index, ?_, hr.idle⟩
    · rw [step_head hes, act, finishCommand_eq (s := withEvents s.events.tail s) hbusy hr.next, if_pos rfl,
        noteHdrError_err hr.port]
    · rw [yieldHdr_inst_headers, hheaders]
      rfl

/-- Settles O48 (R64). -/
theorem stepResolvesInfoOfAnEarlierLine : Obligations.StepResolvesInfoOfAnEarlierLine := by
  intro s n snk src hes hidle hl
  rw [step_nil hes]
  constructor
  · intro p hp ho
    rw [runNext_ready (nextIssue_ready hidle hl (resolve_rdmAt hp) ho), runLine_of_ne_hdr (by simp)]
    rfl
  · intro hno
    exact runNext_refused (nextIssue_unresolved hidle hl (resolve_rdmAt_none hno))

/-- Settles O50 (R131). -/
theorem stepEndsAfterTheLastLine : Obligations.StepEndsAfterTheLastLine := by
  intro s hes hidle hk
  rw [step_nil hes]
  exact runNext_ended (nextIssue_ended hidle (List.getElem?_eq_none hk))

/-- Settles O51 (R16, R114). -/
theorem commandsIgnoreTheResultPort : Obligations.CommandsIgnoreTheResultPort := fun i s r f => exec_withPort i r f s

/-- Settles O49 (R45). -/
theorem stepRefusesOverlapOnAStream : Obligations.StepRefusesOverlapOnAStream := by
  intro s hes
  constructor
  · intro l i c f hidle hl hi hc hf hshares
    exact step_refused hes (nextIssue_overlap hidle hl hi (overlaps_of_shares hc hf hshares))
  · intro f hf
    exact step_refused hes (nextIssue_busy hf)

/-- Settles O52 (R44, R123). -/
theorem issueThenFinishIsRun : Obligations.IssueThenFinishIsRun := by
  intro s t l es hl hop hes h
  rw [step_cons hes] at h
  cases act_next h with
  | @ran i l' _ hready hrun =>
    obtain ⟨-, hl', -, -⟩ := nextIssue_eq_ready_iff.mp hready
    cases hl.symm.trans hl'
    rw [runLine_of_ne_hdr hop] at hrun
    refine ⟨_, issueNext_ready (s := withEvents (.finish :: es) s) hready, ?_⟩
    exact (finishCommand_issued (s := withEvents es s) hrun).trans (by rw [if_neg hop])

/-- Settles O53 (R65): the state after the RDH is the same, and its second line resolves to the header byte's instruction. -/
theorem hdrIsItsTwoLines : Obligations.HdrIsItsTwoLines := by
  intro s snk src es hinv hl hl' hidle ho hopen hne
  obtain ⟨hb, rest, hbytes⟩ := List.exists_cons_of_ne_nil hne
  obtain ⟨q, hq, ha, hfront, -⟩ := source?_of_open (n := 0) hopen hbytes
  have hready := nextIssue_ready hidle hl (resolve_hdr _) ho
  have hsplit (es' : List Event) := exec_rdh_splits (s := bindLine ⟨.hdr, snk, src⟩ (withEvents es' s)) hq ha hfront
  refine ⟨_, afterRdh ⟨.hdr, snk, src⟩ hb ⟨rest, q.answers.tail⟩ (.run :: es) s,
    issueNext_ready (s := withEvents (.finish :: .run :: es) s) hready, ?_, ?_⟩
  · exact (finishCommand_issued (s := withEvents (.run :: es) s) (hsplit (.run :: es))).trans
      (by rw [if_pos rfl, noteHdrError_ok (endRdh_inst_result _ _)]; rfl)
  · have hreturned : (s.inst.results ++ [.ok (.phase1 (splitHeader hb))])[s.inst.k]? =
        some (.ok (.phase1 (splitHeader hb))) := by rw [← hinv.inst.counted, List.getElem?_concat_length]
    have hsecond := nextIssue_ready (s := afterRdh ⟨.hdr, snk, src⟩ hb ⟨rest, q.answers.tail⟩ es s) rfl hl'
      (resolve_hdrRest rfl hreturned) ((overlaps_hdrRest (s := s) _ snk src rfl).trans ho)
    calc runNext (withEvents es s)
        = runLine .rdh ⟨.hdr, snk, src⟩ (withEvents es s) := runNext_ready (s := withEvents es s) hready
      _ = exec (headerInstr (splitHeader hb)) _ := runLine_hdr_split rfl (hsplit es) (endRdh_inst_result _ _) hl'
      _ = runNext _ := ((runNext_ready hsecond).trans (runLine_of_ne_hdr (by simp))).symm

/-- Settles O54 (R120). -/
theorem resetAbandonsACommandInProgress : Obligations.ResetAbandonsACommandInProgress := by
  intro s es hes
  rw [step_cons hes]
  constructor
  · intro hidle
    rw [act, resetCodec_idle (s := withEvents es s) hidle]
    simp only [withPort, withEvents, ← hidle]
  · intro f hf
    obtain ⟨hc, hinst, hdue⟩ := abandon_rest f (withEvents es s)
    have hsinks := abandon_sinks f (withEvents es s)
    have hsources := abandon_sources f (withEvents es s)
    refine ⟨withPort none none (abandon f (withEvents es s)),
      congrArg Host.Outcome.next (resetCodec_busy (s := withEvents es s) hf),
      congrArg (fun c : Codec => { c with result := none, inFlight := none }) hinst, hc.others, fun e => ?_,
      hsinks.others.2, hsources.others.2, fun k hk => ?_, fun q hq => ?_⟩
    · change e ∈ (abandon f (withEvents es s)).due ↔ _
      rw [hdue]
      split_ifs with hn <;> simp [hn, withEvents]
    · obtain ⟨k', j, hk', hbytes⟩ := hsinks.bound k hk
      rw [State.sink?, hc.boundSink] at hk'
      exact ⟨k', j, hk', hbytes⟩
    · obtain ⟨q', j, hq', hj, hbytes⟩ := hsources.bound q hq
      rw [State.source?, hc.boundSource] at hq'
      exact ⟨q', j, hq', hj, hbytes⟩

/-- Settles O60 (R124). -/
theorem rdmAfterRdhIsTwoPhase : Obligations.RdmAfterRdhIsTwoPhase := by
  refine ⟨fun s t mag snk snk' src hinv hes hl hl' h => ?_,
    fun s t u p item info h hp hdue hu => twoPhaseOk_after_rdh h hp hdue hu,
    fun i s t u item info h hread hdue hu => not_twoPhaseOk hu fun e he => ?_,
    fun s t u f item info hes hf hn h hdue hu => not_twoPhaseOk hu fun e he => ?_,
    fun i s d => exec_withDue i d s⟩
  · rw [step_nil hes] at h
    exact rdmAt_after_rdh_twoPhaseOk hinv hl hl' h
  · rw [hdue, exec_due_settled hread h, mem_settle] at he
    exact he.2
  · rw [step_head hes, act, resetCodec_busy (s := withEvents s.events.tail s) hf] at h
    cases h
    obtain ⟨-, -, hsettled⟩ := abandon_rest f (withEvents s.events.tail s)
    rw [if_neg hn] at hsettled
    have he' : e ∈ (abandon f (withEvents s.events.tail s)).due := hdue ▸ he
    rw [hsettled, List.mem_filter, bne_iff_ne] at he'
    exact he'.2

end Sys2Proof.Proofs
end
